-- ==== Sys2Proof/Word.lean ====
section
/-! DEFINITION. The word types of the block: cells, instruction words, the three instruction fields and text. -/

namespace Sys2Proof

/-- A register or a data-memory cell: XLEN = 32 bits, two's complement (R21, D3). -/
abbrev Word := BitVec 32

/-- An instruction word: INSN_W = 32 bits (R8, R49). -/
abbrev InsnWord := BitVec 32

/-- One byte of a file (R33). -/
abbrev Byte := BitVec 8

/-- The opcode field `a`, OPC_W = 5 bits (R8). -/
abbrev Opcode := BitVec 5

/-- The register field `b` as an index: every one of its 64 values names a register (R8, R19, R55). -/
abbrev RegIdx := Fin 64

/-- The operand field `c`, OPD_W = 21 bits, unsigned (R8, R55). -/
abbrev Operand := BitVec 21

/-- A rendered piece of text, as its characters. -/
abbrev Text := List Char

/-- The path of a file: a label the block only reports (R105). -/
abbrev Path := Text

end Sys2Proof
end

