-- ==== Sys2Proof/Config.lean ====
section
/-! DEFINITION. The parameters a model of the block takes, with the values this hardware takes (R8, R9). -/

namespace Sys2Proof

/-- What the assembler does with a token value that does not fit its field (R9, R69, D4). -/
inductive OversizePolicy where
  | reject   -- FieldRangeError
  | mask     -- the value modulo 2^width of its field
deriving DecidableEq, Repr

/-- MEM_SIZE, STRICT_OPCODES and OVERSIZE_POLICY (R9). -/
structure Config where
  memSize        : Nat
  strictOpcodes  : Bool
  oversizePolicy : OversizePolicy
deriving DecidableEq, Repr

namespace Config

/-- The values this hardware takes (R9): 1024 cells, unrecognized opcodes are no-ops, oversize tokens are rejected. -/
def hardware : Config :=
  { memSize := 1024, strictOpcodes := false, oversizePolicy := .reject }

/-- The largest MEM_SIZE the 21-bit operand can reach (R9, D2). -/
def maxMemSize : Nat := 2 ^ 21

/-- NREGS, the register count (R8). -/
def numRegs : Nat := 64

/-- INSN_BYTES, bytes per instruction in the binary file (R8). -/
def insnBytes : Nat := 4

end Config

end Sys2Proof
end

