-- ==== Sys2Proof/Syntax.lean ====
section
/-! DEFINITION. The instructions: one constructor per row of the opcode table (R57), in the table's order. -/

namespace Sys2Proof

/-- An instruction: `b` is its register field, `c` its operand field (R13, R56). The fields are as wide as the
word's own (R53), so every term is one the encoder can pack. -/
inductive Instr where
  | loadConst (b : RegIdx) (c : Operand)   -- opcode 6, R96
  | readMem (b : RegIdx) (c : Operand)     -- opcode 8, R97
  | writeMem (b : RegIdx) (c : Operand)    -- opcode 25, R98
  | negMem (b : RegIdx) (c : Operand)      -- opcode 10, R99
  | unk0 (b : RegIdx) (c : Operand)
  | unk1 (b : RegIdx) (c : Operand)
  | unk2 (b : RegIdx) (c : Operand)
  | unk3 (b : RegIdx) (c : Operand)
  | unk4 (b : RegIdx) (c : Operand)
  | unk5 (b : RegIdx) (c : Operand)
  | unk7 (b : RegIdx) (c : Operand)
  | unk9 (b : RegIdx) (c : Operand)
  | unk11 (b : RegIdx) (c : Operand)
  | unk12 (b : RegIdx) (c : Operand)
  | unk13 (b : RegIdx) (c : Operand)
  | unk14 (b : RegIdx) (c : Operand)
  | unk15 (b : RegIdx) (c : Operand)
  | unk16 (b : RegIdx) (c : Operand)
  | unk17 (b : RegIdx) (c : Operand)
  | unk18 (b : RegIdx) (c : Operand)
  | unk19 (b : RegIdx) (c : Operand)
  | unk20 (b : RegIdx) (c : Operand)
  | unk21 (b : RegIdx) (c : Operand)
  | unk22 (b : RegIdx) (c : Operand)
  | unk23 (b : RegIdx) (c : Operand)
  | unk24 (b : RegIdx) (c : Operand)
  | unk26 (b : RegIdx) (c : Operand)
  | unk27 (b : RegIdx) (c : Operand)
  | unk28 (b : RegIdx) (c : Operand)
  | unk29 (b : RegIdx) (c : Operand)
  | unk30 (b : RegIdx) (c : Operand)
  | unk31 (b : RegIdx) (c : Operand)
deriving DecidableEq, Repr

end Sys2Proof
end

