-- ==== Sys2Proof/WellFormed.lean ====
section
/-! DEFINITION. The checks on values that come from outside the block: field triples, binary files, dump ranges and
parameters. An `Instr` needs no check: its fields are as wide as the word's (R53). -/

namespace Sys2Proof

/-- The three fields of an instruction, by name (R13, R111). -/
inductive FieldName where
  | opcode
  | register
  | operand
deriving DecidableEq, Repr

/-- A field triple as the assembler reads it from a line: values of any size (R68). -/
structure RawFields where
  opcode   : Nat
  register : Nat
  operand  : Nat
deriving DecidableEq, Repr

namespace RawFields

/-- The lowest-numbered token whose value does not fit its field, with the value (R69). -/
def firstOversize (f : RawFields) : Option (FieldName × Nat) :=
  if 2 ^ 5 ≤ f.opcode then some (.opcode, f.opcode)
  else if 2 ^ 6 ≤ f.register then some (.register, f.register)
  else if 2 ^ 21 ≤ f.operand then some (.operand, f.operand)
  else none

/-- Every field in range: the encoder's domain (R52). -/
abbrev wellFormed (f : RawFields) : Prop :=
  f.opcode < 2 ^ 5 ∧ f.register < 2 ^ 6 ∧ f.operand < 2 ^ 21

end RawFields

namespace WellFormed

/-- A binary file that holds a program: not empty, whole words (R33, R37, R107, R108). -/
abbrev binary (bytes : List Byte) : Prop :=
  bytes.length ≠ 0 ∧ bytes.length % Config.insnBytes = 0

/-- A dump range the executor accepts (R109). `start ≤ end` is not required (R48). -/
abbrev dumpRange (memSize : Nat) (start stop : Int) : Prop :=
  (0 ≤ start ∧ start < memSize) ∧ (0 ≤ stop ∧ stop ≤ memSize)

/-- A legal MEM_SIZE (R9, D2). -/
abbrev config (cfg : Config) : Prop :=
  1 ≤ cfg.memSize ∧ cfg.memSize ≤ Config.maxMemSize

end WellFormed

end Sys2Proof
end

