-- ==== Sys2Proof/Decode.lean ====
section
/-! DEFINITION. The codec: the bit-field decoder and encoder (R49 to R54), the opcode map (R57), the byte images of
words (R33, R61) and the opcode table as match and mask. -/

namespace Sys2Proof

/-! ## The field unpacker and packer -/

/-- The decoder's outputs: `dec_opc`, `dec_reg`, `dec_opd` (R50, R51). -/
structure Fields where
  a : Opcode
  b : RegIdx
  c : Operand
deriving DecidableEq, Repr

/-- `decode(word) -> (opcode, register, operand)`, total over all 32-bit words (R50). -/
def decodeFields (w : InsnWord) : Fields :=
  { a := w.extractLsb' 0 5, b := (w.extractLsb' 5 6).toFin, c := w.extractLsb' 11 21 }

/-- The packer: `enc_word = enc_opd ++ enc_reg ++ enc_opc` (R52, R53). -/
def encodeFields (f : Fields) : InsnWord :=
  f.c ++ (BitVec.ofFin f.b : BitVec 6) ++ f.a

/-! ## The opcode map -/

/-- The opcode field of each instruction (R57). -/
def Instr.opcode : Instr → Opcode
  | .loadConst _ _ => 6
  | .readMem _ _ => 8
  | .writeMem _ _ => 25
  | .negMem _ _ => 10
  | .unk0 _ _ => 0
  | .unk1 _ _ => 1
  | .unk2 _ _ => 2
  | .unk3 _ _ => 3
  | .unk4 _ _ => 4
  | .unk5 _ _ => 5
  | .unk7 _ _ => 7
  | .unk9 _ _ => 9
  | .unk11 _ _ => 11
  | .unk12 _ _ => 12
  | .unk13 _ _ => 13
  | .unk14 _ _ => 14
  | .unk15 _ _ => 15
  | .unk16 _ _ => 16
  | .unk17 _ _ => 17
  | .unk18 _ _ => 18
  | .unk19 _ _ => 19
  | .unk20 _ _ => 20
  | .unk21 _ _ => 21
  | .unk22 _ _ => 22
  | .unk23 _ _ => 23
  | .unk24 _ _ => 24
  | .unk26 _ _ => 26
  | .unk27 _ _ => 27
  | .unk28 _ _ => 28
  | .unk29 _ _ => 29
  | .unk30 _ _ => 30
  | .unk31 _ _ => 31

/-- The register field of an instruction (R55). -/
def Instr.register : Instr → RegIdx
  | .loadConst b _ => b
  | .readMem b _ => b
  | .writeMem b _ => b
  | .negMem b _ => b
  | .unk0 b _ => b
  | .unk1 b _ => b
  | .unk2 b _ => b
  | .unk3 b _ => b
  | .unk4 b _ => b
  | .unk5 b _ => b
  | .unk7 b _ => b
  | .unk9 b _ => b
  | .unk11 b _ => b
  | .unk12 b _ => b
  | .unk13 b _ => b
  | .unk14 b _ => b
  | .unk15 b _ => b
  | .unk16 b _ => b
  | .unk17 b _ => b
  | .unk18 b _ => b
  | .unk19 b _ => b
  | .unk20 b _ => b
  | .unk21 b _ => b
  | .unk22 b _ => b
  | .unk23 b _ => b
  | .unk24 b _ => b
  | .unk26 b _ => b
  | .unk27 b _ => b
  | .unk28 b _ => b
  | .unk29 b _ => b
  | .unk30 b _ => b
  | .unk31 b _ => b

/-- The operand field of an instruction (R55). -/
def Instr.operand : Instr → Operand
  | .loadConst _ c => c
  | .readMem _ c => c
  | .writeMem _ c => c
  | .negMem _ c => c
  | .unk0 _ c => c
  | .unk1 _ c => c
  | .unk2 _ c => c
  | .unk3 _ c => c
  | .unk4 _ c => c
  | .unk5 _ c => c
  | .unk7 _ c => c
  | .unk9 _ c => c
  | .unk11 _ c => c
  | .unk12 _ c => c
  | .unk13 _ c => c
  | .unk14 _ c => c
  | .unk15 _ c => c
  | .unk16 _ c => c
  | .unk17 _ c => c
  | .unk18 _ c => c
  | .unk19 _ c => c
  | .unk20 _ c => c
  | .unk21 _ c => c
  | .unk22 _ c => c
  | .unk23 _ c => c
  | .unk24 _ c => c
  | .unk26 _ c => c
  | .unk27 _ c => c
  | .unk28 _ c => c
  | .unk29 _ c => c
  | .unk30 _ c => c
  | .unk31 _ c => c

/-- The spec's mnemonics (R57, D6). -/
def Instr.mnemonic : Instr → String
  | .loadConst _ _ => "LOAD_CONST"
  | .readMem _ _ => "READ_MEM"
  | .writeMem _ _ => "WRITE_MEM"
  | .negMem _ _ => "NEG_MEM"
  | .unk0 _ _ => "UNK0"
  | .unk1 _ _ => "UNK1"
  | .unk2 _ _ => "UNK2"
  | .unk3 _ _ => "UNK3"
  | .unk4 _ _ => "UNK4"
  | .unk5 _ _ => "UNK5"
  | .unk7 _ _ => "UNK7"
  | .unk9 _ _ => "UNK9"
  | .unk11 _ _ => "UNK11"
  | .unk12 _ _ => "UNK12"
  | .unk13 _ _ => "UNK13"
  | .unk14 _ _ => "UNK14"
  | .unk15 _ _ => "UNK15"
  | .unk16 _ _ => "UNK16"
  | .unk17 _ _ => "UNK17"
  | .unk18 _ _ => "UNK18"
  | .unk19 _ _ => "UNK19"
  | .unk20 _ _ => "UNK20"
  | .unk21 _ _ => "UNK21"
  | .unk22 _ _ => "UNK22"
  | .unk23 _ _ => "UNK23"
  | .unk24 _ _ => "UNK24"
  | .unk26 _ _ => "UNK26"
  | .unk27 _ _ => "UNK27"
  | .unk28 _ _ => "UNK28"
  | .unk29 _ _ => "UNK29"
  | .unk30 _ _ => "UNK30"
  | .unk31 _ _ => "UNK31"

/-- The field triple of an instruction (R13). -/
def Instr.fields (i : Instr) : Fields :=
  { a := i.opcode, b := i.register, c := i.operand }

/-- The opcode alone selects the operation (R57). `a` has 5 bits, so the last case is 31 and no other. -/
def Instr.ofFields (f : Fields) : Instr :=
  match f.a.toNat with
  | 0 => .unk0 f.b f.c
  | 1 => .unk1 f.b f.c
  | 2 => .unk2 f.b f.c
  | 3 => .unk3 f.b f.c
  | 4 => .unk4 f.b f.c
  | 5 => .unk5 f.b f.c
  | 6 => .loadConst f.b f.c
  | 7 => .unk7 f.b f.c
  | 8 => .readMem f.b f.c
  | 9 => .unk9 f.b f.c
  | 10 => .negMem f.b f.c
  | 11 => .unk11 f.b f.c
  | 12 => .unk12 f.b f.c
  | 13 => .unk13 f.b f.c
  | 14 => .unk14 f.b f.c
  | 15 => .unk15 f.b f.c
  | 16 => .unk16 f.b f.c
  | 17 => .unk17 f.b f.c
  | 18 => .unk18 f.b f.c
  | 19 => .unk19 f.b f.c
  | 20 => .unk20 f.b f.c
  | 21 => .unk21 f.b f.c
  | 22 => .unk22 f.b f.c
  | 23 => .unk23 f.b f.c
  | 24 => .unk24 f.b f.c
  | 25 => .writeMem f.b f.c
  | 26 => .unk26 f.b f.c
  | 27 => .unk27 f.b f.c
  | 28 => .unk28 f.b f.c
  | 29 => .unk29 f.b f.c
  | 30 => .unk30 f.b f.c
  | _ => .unk31 f.b f.c

/-- The instruction of a word (R57, R58): every word is one. -/
def decode (w : InsnWord) : Instr :=
  Instr.ofFields (decodeFields w)

/-- The word of an instruction (R52). -/
def encode (i : Instr) : InsnWord :=
  encodeFields i.fields

/-! ## Byte images -/

/-- The four bytes of a word in file order: `w[7:0]`, `w[15:8]`, `w[23:16]`, `w[31:24]` (R61). -/
def bytesOfWord (w : InsnWord) : List Byte :=
  [w.extractLsb' 0 8, w.extractLsb' 8 8, w.extractLsb' 16 8, w.extractLsb' 24 8]

/-- The word whose file bytes are `b0 b1 b2 b3`, little-endian (R33). -/
def wordOfBytes (b0 b1 b2 b3 : Byte) : InsnWord :=
  b3 ++ b2 ++ b1 ++ b0

/-- Why bytes hold no instruction. Decoding a whole word never fails (R50). -/
inductive DecodeError where
  | truncated (present : Nat)   -- fewer than the four bytes of an instruction (R60)
deriving DecidableEq, Repr

/-- The instruction at the head of a byte list, with the bytes after it (R60). -/
def decodeBytes : List Byte → Except DecodeError (Instr × List Byte)
  | b0 :: b1 :: b2 :: b3 :: rest => .ok (decode (wordOfBytes b0 b1 b2 b3), rest)
  | bytes => .error (.truncated bytes.length)

/-- The byte image of an instruction (R61). -/
def encodeBytes (i : Instr) : List Byte :=
  bytesOfWord (encode i)

/-- The binary file of a word list: the byte images in order, no header, trailer or padding (R61). -/
def imageOfWords : List InsnWord → List Byte
  | [] => []
  | w :: ws => bytesOfWord w ++ imageOfWords ws

/-- The words of a file of whole words (R33); a file that is not a whole number of words has none (R108). -/
def wordsOfImage : List Byte → Option (List InsnWord)
  | [] => some []
  | b0 :: b1 :: b2 :: b3 :: rest => (wordsOfImage rest).map (wordOfBytes b0 b1 b2 b3 :: ·)
  | _ => none

/-! ## The opcode table -/

/-- A row of the opcode table: the words it covers are those with `w &&& mask = pattern` (R57). -/
structure OpcodeRow where
  mnemonic : String
  pattern  : InsnWord
  mask     : InsnWord
  make     : RegIdx → Operand → Instr

/-- The rows that have semantics (R57). -/
def recognizedRows : List OpcodeRow :=
  [ ⟨"LOAD_CONST", 0x00000006, 0x0000001F, .loadConst⟩
  , ⟨"READ_MEM", 0x00000008, 0x0000001F, .readMem⟩
  , ⟨"WRITE_MEM", 0x00000019, 0x0000001F, .writeMem⟩
  , ⟨"NEG_MEM", 0x0000000A, 0x0000001F, .negMem⟩ ]

/-- The first half of the unrecognized rows (R101). -/
def unrecognizedRowsLow : List OpcodeRow :=
  [ ⟨"UNK0", 0x00000000, 0x0000001F, .unk0⟩
  , ⟨"UNK1", 0x00000001, 0x0000001F, .unk1⟩
  , ⟨"UNK2", 0x00000002, 0x0000001F, .unk2⟩
  , ⟨"UNK3", 0x00000003, 0x0000001F, .unk3⟩
  , ⟨"UNK4", 0x00000004, 0x0000001F, .unk4⟩
  , ⟨"UNK5", 0x00000005, 0x0000001F, .unk5⟩
  , ⟨"UNK7", 0x00000007, 0x0000001F, .unk7⟩
  , ⟨"UNK9", 0x00000009, 0x0000001F, .unk9⟩
  , ⟨"UNK11", 0x0000000B, 0x0000001F, .unk11⟩
  , ⟨"UNK12", 0x0000000C, 0x0000001F, .unk12⟩
  , ⟨"UNK13", 0x0000000D, 0x0000001F, .unk13⟩
  , ⟨"UNK14", 0x0000000E, 0x0000001F, .unk14⟩
  , ⟨"UNK15", 0x0000000F, 0x0000001F, .unk15⟩
  , ⟨"UNK16", 0x00000010, 0x0000001F, .unk16⟩ ]

/-- The second half of the unrecognized rows (R101). -/
def unrecognizedRowsHigh : List OpcodeRow :=
  [ ⟨"UNK17", 0x00000011, 0x0000001F, .unk17⟩
  , ⟨"UNK18", 0x00000012, 0x0000001F, .unk18⟩
  , ⟨"UNK19", 0x00000013, 0x0000001F, .unk19⟩
  , ⟨"UNK20", 0x00000014, 0x0000001F, .unk20⟩
  , ⟨"UNK21", 0x00000015, 0x0000001F, .unk21⟩
  , ⟨"UNK22", 0x00000016, 0x0000001F, .unk22⟩
  , ⟨"UNK23", 0x00000017, 0x0000001F, .unk23⟩
  , ⟨"UNK24", 0x00000018, 0x0000001F, .unk24⟩
  , ⟨"UNK26", 0x0000001A, 0x0000001F, .unk26⟩
  , ⟨"UNK27", 0x0000001B, 0x0000001F, .unk27⟩
  , ⟨"UNK28", 0x0000001C, 0x0000001F, .unk28⟩
  , ⟨"UNK29", 0x0000001D, 0x0000001F, .unk29⟩
  , ⟨"UNK30", 0x0000001E, 0x0000001F, .unk30⟩
  , ⟨"UNK31", 0x0000001F, 0x0000001F, .unk31⟩ ]

/-- The whole opcode table, in its order. -/
def opcodeTable : List OpcodeRow :=
  recognizedRows ++ unrecognizedRowsLow ++ unrecognizedRowsHigh

/-- Whether a row covers a word (R57). -/
def OpcodeRow.covers (r : OpcodeRow) (w : InsnWord) : Bool :=
  w &&& r.mask == r.pattern

/-! ## The host's view of a table word -/

/-- The 32-bit word whose low `nbits` bits are those of `w`, the others 0. -/
def tableWord (nbits w : Nat) : InsnWord :=
  BitVec.ofNat 32 (w % 2 ^ nbits)

/-- The instruction the decoder reads from a table row's word: its four bytes as the file stores them, given to
`decodeBytes`. A row wider than the one format (R49) is none. -/
def decodeTableWord (nbits w : Nat) : Option Instr :=
  if 32 < nbits then none
  else match decodeBytes (bytesOfWord (tableWord nbits w)) with
    | .ok (i, []) => some i
    | _ => none

end Sys2Proof
end

