-- ==== Sys2Proof/Machine/State.lean ====
section
/-! DEFINITION. The executor's state, its fatal errors, the reasons a step can stop, and the state at the start of a run. -/

namespace Sys2Proof.Machine

/-- Why a listing line does not parse (R106). A token is numbered 0, 1 or 2 (R66). -/
inductive ParseReason where
  | invalidUtf8                -- the line is not valid UTF-8 (R63, D18)
  | tokenCount (found : Nat)   -- not exactly three tokens (R66)
  | noDigits (token : Nat)     -- nothing is left after the 2-character prefix (R67)
  | notHex (token : Nat)       -- a character after the prefix is no hexadecimal digit (R67)
deriving DecidableEq, Repr

/-- The fatal errors, each with the info it records (R104). A raw line is the line's bytes. -/
inductive Error where
  | fileNotFound (path : Path)                                                         -- R105
  | parseError (line : Nat) (rawLine : List Byte) (reason : ParseReason)               -- R106
  | emptyInput (path : Path)                                                           -- R107
  | misalignedBinary (path : Path) (length : Nat)                                      -- R108
  | rangeError (start stop : Int) (memSize : Nat)                                      -- R109
  | outOfBoundsAccess (ip : Nat) (word : InsnWord) (address : Nat)                     -- R110
  | fieldRange (line : Nat) (rawLine : List Byte) (field : FieldName) (value : Nat)    -- R111
  | unknownInstruction (ip : Nat) (word : InsnWord) (opcode : Opcode)                  -- R112
  | usageError                                                                         -- R113
deriving DecidableEq, Repr

/-- The run status (R29). `done` and `fatal` are final. -/
inductive Status where
  | running
  | done
  | fatal (e : Error)
deriving DecidableEq, Repr

/-- The parameters of a run that the step or the result reads; no step changes them (R30). -/
structure RunParams where
  memSize       : Nat
  strictOpcodes : Bool
  dumpStart     : Nat
  dumpEnd       : Nat
deriving DecidableEq, Repr

/-- The data memory: pairs of a cell index and its value, indexes strictly rising, no value 0. An unlisted cell
reads 0, its start-of-run value (R25, R31, R43). -/
abbrev Memory := List (Nat × Word)

/-- The executor's state `(x, M, ip, T, status)` (R18), with the run's stream and parameters (R24, R30). -/
structure State where
  /-- The register file `x` (R19). -/
  regs    : Vector Word 64
  /-- The data memory `M` (R25). -/
  mem     : Memory
  /-- The instruction pointer, a word index (R23). -/
  ip      : Nat
  /-- The touched-register set `T`, bit r for register r (R27). -/
  touched : BitVec 64
  /-- The run status (R29). -/
  status  : Status
  /-- The instruction stream IMEM, read-only (R24). -/
  imem    : List InsnWord
  /-- The run's parameters (R30). -/
  params  : RunParams
deriving DecidableEq, Repr

/-- Why a step cannot be taken. An error an instruction raises is no fault of this kind: its step answers the next
state, whose status is `fatal` (R103). -/
inductive Fault where
  /-- Raised by `step` on a run that is done: no step follows (R29). Safe: the model stops. -/
  | runDone
  /-- Raised by `step` on a run that a fatal error ended: no step follows (R29, R118). Safe: the model stops. -/
  | runFatal (e : Error)
  /-- Raised by `step` when `ip` is past N, which no run reaches (R23, R81). Safe: the model stops. -/
  | fetchPastEnd
deriving DecidableEq, Repr

/-- Why an instruction has no meaning. -/
inductive Refusal where
  /-- Raised by `exec`'s arm of an instruction that is not modelled yet; no arm is. Safe: the model stops. -/
  | notModelled (mnemonic : String)
deriving DecidableEq, Repr

namespace State

/-- The start of a run (R31, R126): every register and cell 0, `ip` 0, `T` empty, `running`. No program is loaded
here (R24 loads it from the binary file) and the dump range, the caller's to give, is empty. -/
def reset : State :=
  { regs := Vector.replicate 64 0
    mem := []
    ip := 0
    touched := 0
    status := .running
    imem := []
    params :=
      { memSize := Config.hardware.memSize
        strictOpcodes := Config.hardware.strictOpcodes
        dumpStart := 0
        dumpEnd := 0 } }

end State

end Sys2Proof.Machine
end

