-- ==== Sys2Proof/Machine/Operands.lean ====
section
/-! DEFINITION. The readings of the operand field (R55, R56) and of a cell (R11, R21). -/

namespace Sys2Proof.Machine

/-- The operand as LOAD_CONST's immediate: `zext_XLEN(c)`, never sign-extended (R55). -/
def immediate (c : Operand) : Word :=
  c.setWidth 32

/-- The operand as a cell index, unscaled and unshifted (R42, R55). -/
def cellIndex (c : Operand) : Nat :=
  c.toNat

/-- `sint(v)`: the value a cell has where it leaves the block (R11, R21). -/
def sint (v : Word) : Int :=
  v.toInt

end Sys2Proof.Machine
end

