-- ==== Sys2Proof/Machine/Flags.lean ====
section
/-! DEFINITION. The block's one arithmetic operation. There are no flags, condition codes or overflow indications
(R26, R99), so nothing else is computed beside its result. -/

namespace Sys2Proof.Machine

/-- `-_XLEN v = (2^XLEN - uint(v)) mod 2^XLEN` (R11, R99, R100). -/
def negate (v : Word) : Word :=
  BitVec.ofNat 32 (2 ^ 32 - v.toNat)

end Sys2Proof.Machine
end

