-- ==== Sys2Proof/Machine/Ops.lean ====
section
/-! DEFINITION. The named operations over the state: the register-file ports, the data memory, the record, the
advance, raising a fatal error, the bounds check, fetching, and the common tail of every instruction. -/

namespace Sys2Proof.Machine

/-! ## Data memory -/

/-- `M[a]`; an unlisted cell is 0 (R31, R39). -/
def Memory.read : Memory → Nat → Word
  | [], _ => 0
  | (k, v) :: rest, a => if k = a then v else Memory.read rest a

/-- The cell unlisted, so that it reads 0. -/
def Memory.erase (m : Memory) (a : Nat) : Memory :=
  m.filter fun e => e.1 ≠ a

/-- The cell listed before the first greater index. -/
def Memory.insert : Memory → Nat → Word → Memory
  | [], a, v => [(a, v)]
  | e :: rest, a, v => if a < e.1 then (a, v) :: e :: rest else e :: Memory.insert rest a v

/-- `M[a] <- v`, no other cell changes (R39). A cell written to 0 is unlisted, so the form stays canonical. -/
def Memory.write (m : Memory) (a : Nat) (v : Word) : Memory :=
  if v = 0 then m.erase a else (m.erase a).insert a v

/-- The canonical form: cell indexes strictly rising, no listed cell 0. -/
abbrev Memory.wf (m : Memory) : Prop :=
  m.Pairwise (fun e f => e.1 < f.1) ∧ ∀ e ∈ m, e.2 ≠ 0

namespace State

/-- `M[a]` of the state (R39). -/
def readCell (s : State) (a : Nat) : Word :=
  Memory.read s.mem a

/-- `MemWrite(a, 1, v)` (R39). -/
def writeCell (s : State) (a : Nat) (v : Word) : State :=
  { s with mem := Memory.write s.mem a v }

/-! ## The register file -/

/-- The read port: `rf_rdata = x[r]` (R84). -/
def readReg (s : State) (r : RegIdx) : Word :=
  s.regs[r.val]

/-- The write port: `x[r] <- v`; every index is writable (R19, R85). -/
def writeReg (s : State) (r : RegIdx) (v : Word) : State :=
  { s with regs := s.regs.set r.val v }

/-! ## Record and advance -/

/-- Whether register r is in `T` (R27). -/
def isTouched (s : State) (r : RegIdx) : Bool :=
  s.touched.getLsbD r.val

/-- `T <- T ∪ {r}` (R87). -/
def touch (s : State) (r : RegIdx) : State :=
  { s with touched := s.touched ||| BitVec.twoPow 64 r.val }

/-- `ip <- ip + 1` (R88). -/
def advance (s : State) : State :=
  { s with ip := s.ip + 1 }

/-- The common tail of every instruction: the record, then the advance (R87, R88). -/
def retire (s : State) (r : RegIdx) : State :=
  (s.touch r).advance

/-- `status <- Done` (R79). -/
def finish (s : State) : State :=
  { s with status := .done }

/-- `status <- Fatal(e)`; nothing else changes (R103, R117). -/
def fail (s : State) (e : Error) : State :=
  { s with status := .fatal e }

/-- `IMEM[ip]` (R81). -/
def fetch (s : State) : Option InsnWord :=
  s.imem[s.ip]?

end State

/-! ## Errors -/

/-- The spec's numeric error codes (R104, D10). -/
def Error.code : Error → Nat
  | .fileNotFound _ => 1
  | .parseError _ _ _ => 2
  | .emptyInput _ => 3
  | .misalignedBinary _ _ => 4
  | .rangeError _ _ _ => 5
  | .outOfBoundsAccess _ _ _ => 6
  | .fieldRange _ _ _ _ => 7
  | .unknownInstruction _ _ _ => 8
  | .usageError => 9

/-- `raise e` within a step: the run is over and the step changes nothing but the status (R103). There is no
handler, no saved state and no return (R117, R118). -/
def raise (e : Error) (s : State) : Host.Outcome State Fault Refusal :=
  .next (s.fail e)

/-- `CheckBounds(c)` before the access of instruction `i`, then `access` (R38). The word an error records is the
instruction's own (R104). -/
def withBounds (i : Instr) (s : State) (access : State) : Host.Outcome State Fault Refusal :=
  if cellIndex i.operand < s.params.memSize then .next access
  else raise (.outOfBoundsAccess s.ip (encode i) (cellIndex i.operand)) s

/-- The step of an unrecognized opcode: its record and advance (R101), or with STRICT_OPCODES the error
UnknownInstruction (R102). -/
def unrecognized (i : Instr) (s : State) : Host.Outcome State Fault Refusal :=
  if s.params.strictOpcodes then raise (.unknownInstruction s.ip (encode i) i.opcode) s
  else .next (s.retire i.register)

/-! ## Placing a word where the next fetch reads it -/

/-- The stream with `w` at index `k`, the stream's other words kept; a gap before `k` is filled with words 0. -/
def placeWord : List InsnWord → Nat → InsnWord → List InsnWord
  | [], 0, w => [w]
  | [], k + 1, w => 0 :: placeWord [] k w
  | _ :: rest, 0, w => w :: rest
  | x :: rest, k + 1, w => x :: placeWord rest k w

end Sys2Proof.Machine
end

