-- ==== Sys2Proof/Machine/Negate.lean ====
section
/-! DEFINITION. The arithmetic instruction (R99). -/

namespace Sys2Proof.Machine

/-- NEG_MEM: `x[b] <- -_XLEN M[c]`; the cell is not changed (R99). -/
def execNegMem (b : RegIdx) (c : Operand) (s : State) : Host.Outcome State Fault Refusal :=
  withBounds (.negMem b c) s ((s.writeReg b (negate (s.readCell (cellIndex c)))).retire b)

end Sys2Proof.Machine
end

