-- ==== Sys2Proof/Machine/Transfer.lean ====
section
/-! DEFINITION. The data-transfer instructions (R96 to R98). -/

namespace Sys2Proof.Machine

/-- LOAD_CONST: `x[b] <- zext_XLEN(c)`, with no bounds check (R96). -/
def execLoadConst (b : RegIdx) (c : Operand) (s : State) : Host.Outcome State Fault Refusal :=
  .next ((s.writeReg b (immediate c)).retire b)

/-- READ_MEM: `x[b] <- M[c]` (R97). -/
def execReadMem (b : RegIdx) (c : Operand) (s : State) : Host.Outcome State Fault Refusal :=
  withBounds (.readMem b c) s ((s.writeReg b (s.readCell (cellIndex c))).retire b)

/-- WRITE_MEM: `M[c] <- x[b]`; `b` is recorded though no register is written (R98). -/
def execWriteMem (b : RegIdx) (c : Operand) (s : State) : Host.Outcome State Fault Refusal :=
  withBounds (.writeMem b c) s ((s.writeCell (cellIndex c) (s.readReg b)).retire b)

end Sys2Proof.Machine
end

