-- ==== Sys2Proof/Machine/Unrecognized.lean ====
section
/-! DEFINITION. The 28 unrecognized opcodes (R101, R102): each is `unrecognized` of its own instruction. -/

namespace Sys2Proof.Machine

/-- Opcode 0 (R101, R102). -/
def execUnk0 (b : RegIdx) (c : Operand) (s : State) : Host.Outcome State Fault Refusal :=
  unrecognized (.unk0 b c) s

/-- Opcode 1 (R101, R102). -/
def execUnk1 (b : RegIdx) (c : Operand) (s : State) : Host.Outcome State Fault Refusal :=
  unrecognized (.unk1 b c) s

/-- Opcode 2 (R101, R102). -/
def execUnk2 (b : RegIdx) (c : Operand) (s : State) : Host.Outcome State Fault Refusal :=
  unrecognized (.unk2 b c) s

/-- Opcode 3 (R101, R102). -/
def execUnk3 (b : RegIdx) (c : Operand) (s : State) : Host.Outcome State Fault Refusal :=
  unrecognized (.unk3 b c) s

/-- Opcode 4 (R101, R102). -/
def execUnk4 (b : RegIdx) (c : Operand) (s : State) : Host.Outcome State Fault Refusal :=
  unrecognized (.unk4 b c) s

/-- Opcode 5 (R101, R102). -/
def execUnk5 (b : RegIdx) (c : Operand) (s : State) : Host.Outcome State Fault Refusal :=
  unrecognized (.unk5 b c) s

/-- Opcode 7 (R101, R102). -/
def execUnk7 (b : RegIdx) (c : Operand) (s : State) : Host.Outcome State Fault Refusal :=
  unrecognized (.unk7 b c) s

/-- Opcode 9 (R101, R102). -/
def execUnk9 (b : RegIdx) (c : Operand) (s : State) : Host.Outcome State Fault Refusal :=
  unrecognized (.unk9 b c) s

/-- Opcode 11 (R101, R102). -/
def execUnk11 (b : RegIdx) (c : Operand) (s : State) : Host.Outcome State Fault Refusal :=
  unrecognized (.unk11 b c) s

/-- Opcode 12 (R101, R102). -/
def execUnk12 (b : RegIdx) (c : Operand) (s : State) : Host.Outcome State Fault Refusal :=
  unrecognized (.unk12 b c) s

/-- Opcode 13 (R101, R102). -/
def execUnk13 (b : RegIdx) (c : Operand) (s : State) : Host.Outcome State Fault Refusal :=
  unrecognized (.unk13 b c) s

/-- Opcode 14 (R101, R102). -/
def execUnk14 (b : RegIdx) (c : Operand) (s : State) : Host.Outcome State Fault Refusal :=
  unrecognized (.unk14 b c) s

/-- Opcode 15 (R101, R102). -/
def execUnk15 (b : RegIdx) (c : Operand) (s : State) : Host.Outcome State Fault Refusal :=
  unrecognized (.unk15 b c) s

/-- Opcode 16 (R101, R102). -/
def execUnk16 (b : RegIdx) (c : Operand) (s : State) : Host.Outcome State Fault Refusal :=
  unrecognized (.unk16 b c) s

/-- Opcode 17 (R101, R102). -/
def execUnk17 (b : RegIdx) (c : Operand) (s : State) : Host.Outcome State Fault Refusal :=
  unrecognized (.unk17 b c) s

/-- Opcode 18 (R101, R102). -/
def execUnk18 (b : RegIdx) (c : Operand) (s : State) : Host.Outcome State Fault Refusal :=
  unrecognized (.unk18 b c) s

/-- Opcode 19 (R101, R102). -/
def execUnk19 (b : RegIdx) (c : Operand) (s : State) : Host.Outcome State Fault Refusal :=
  unrecognized (.unk19 b c) s

/-- Opcode 20 (R101, R102). -/
def execUnk20 (b : RegIdx) (c : Operand) (s : State) : Host.Outcome State Fault Refusal :=
  unrecognized (.unk20 b c) s

/-- Opcode 21 (R101, R102). -/
def execUnk21 (b : RegIdx) (c : Operand) (s : State) : Host.Outcome State Fault Refusal :=
  unrecognized (.unk21 b c) s

/-- Opcode 22 (R101, R102). -/
def execUnk22 (b : RegIdx) (c : Operand) (s : State) : Host.Outcome State Fault Refusal :=
  unrecognized (.unk22 b c) s

/-- Opcode 23 (R101, R102). -/
def execUnk23 (b : RegIdx) (c : Operand) (s : State) : Host.Outcome State Fault Refusal :=
  unrecognized (.unk23 b c) s

/-- Opcode 24 (R101, R102). -/
def execUnk24 (b : RegIdx) (c : Operand) (s : State) : Host.Outcome State Fault Refusal :=
  unrecognized (.unk24 b c) s

/-- Opcode 26 (R101, R102). -/
def execUnk26 (b : RegIdx) (c : Operand) (s : State) : Host.Outcome State Fault Refusal :=
  unrecognized (.unk26 b c) s

/-- Opcode 27 (R101, R102). -/
def execUnk27 (b : RegIdx) (c : Operand) (s : State) : Host.Outcome State Fault Refusal :=
  unrecognized (.unk27 b c) s

/-- Opcode 28 (R101, R102). -/
def execUnk28 (b : RegIdx) (c : Operand) (s : State) : Host.Outcome State Fault Refusal :=
  unrecognized (.unk28 b c) s

/-- Opcode 29 (R101, R102). -/
def execUnk29 (b : RegIdx) (c : Operand) (s : State) : Host.Outcome State Fault Refusal :=
  unrecognized (.unk29 b c) s

/-- Opcode 30 (R101, R102). -/
def execUnk30 (b : RegIdx) (c : Operand) (s : State) : Host.Outcome State Fault Refusal :=
  unrecognized (.unk30 b c) s

/-- Opcode 31 (R101, R102). -/
def execUnk31 (b : RegIdx) (c : Operand) (s : State) : Host.Outcome State Fault Refusal :=
  unrecognized (.unk31 b c) s

end Sys2Proof.Machine
end

