-- ==== Sys2Proof/Machine/Dispatch.lean ====
section
/-! DEFINITION. The dispatch: one arm per instruction, each its meaning. -/

namespace Sys2Proof.Machine

/-- The effect of an instruction on a state (R57, R77). -/
def exec (i : Instr) (s : State) : Host.Outcome State Fault Refusal :=
  match i with
  | .loadConst b c => Sys2Proof.Machine.execLoadConst b c s
  | .readMem b c => Sys2Proof.Machine.execReadMem b c s
  | .writeMem b c => Sys2Proof.Machine.execWriteMem b c s
  | .negMem b c => Sys2Proof.Machine.execNegMem b c s
  | .unk0 b c => Sys2Proof.Machine.execUnk0 b c s
  | .unk1 b c => Sys2Proof.Machine.execUnk1 b c s
  | .unk2 b c => Sys2Proof.Machine.execUnk2 b c s
  | .unk3 b c => Sys2Proof.Machine.execUnk3 b c s
  | .unk4 b c => Sys2Proof.Machine.execUnk4 b c s
  | .unk5 b c => Sys2Proof.Machine.execUnk5 b c s
  | .unk7 b c => Sys2Proof.Machine.execUnk7 b c s
  | .unk9 b c => Sys2Proof.Machine.execUnk9 b c s
  | .unk11 b c => Sys2Proof.Machine.execUnk11 b c s
  | .unk12 b c => Sys2Proof.Machine.execUnk12 b c s
  | .unk13 b c => Sys2Proof.Machine.execUnk13 b c s
  | .unk14 b c => Sys2Proof.Machine.execUnk14 b c s
  | .unk15 b c => Sys2Proof.Machine.execUnk15 b c s
  | .unk16 b c => Sys2Proof.Machine.execUnk16 b c s
  | .unk17 b c => Sys2Proof.Machine.execUnk17 b c s
  | .unk18 b c => Sys2Proof.Machine.execUnk18 b c s
  | .unk19 b c => Sys2Proof.Machine.execUnk19 b c s
  | .unk20 b c => Sys2Proof.Machine.execUnk20 b c s
  | .unk21 b c => Sys2Proof.Machine.execUnk21 b c s
  | .unk22 b c => Sys2Proof.Machine.execUnk22 b c s
  | .unk23 b c => Sys2Proof.Machine.execUnk23 b c s
  | .unk24 b c => Sys2Proof.Machine.execUnk24 b c s
  | .unk26 b c => Sys2Proof.Machine.execUnk26 b c s
  | .unk27 b c => Sys2Proof.Machine.execUnk27 b c s
  | .unk28 b c => Sys2Proof.Machine.execUnk28 b c s
  | .unk29 b c => Sys2Proof.Machine.execUnk29 b c s
  | .unk30 b c => Sys2Proof.Machine.execUnk30 b c s
  | .unk31 b c => Sys2Proof.Machine.execUnk31 b c s

end Sys2Proof.Machine
end

