-- ==== Sys2Proof/Machine/Step.lean ====
section
/-! DEFINITION. One step of the executor (R77), and placing an instruction where it fetches next. -/

namespace Sys2Proof.Machine

/-- One step (R77): at `ip = N` the run becomes done (R79); else the word at `ip` is fetched (R81), decoded (R82) and
run. A run that is over takes no step (R29). -/
def step (s : State) : Host.Outcome State Fault Refusal :=
  match s.status with
  | .done => .fault .runDone
  | .fatal e => .fault (.runFatal e)
  | .running =>
    if s.ip = s.imem.length then .next s.finish
    else match s.fetch with
      | some w => exec (decode w) s
      | none => .fault .fetchPastEnd

/-- `s` with the table word `w` at `IMEM[ip]` and the run running, so that the next step runs it: it stands for the
load of a binary file (R126). -/
def State.withFetchWord (s : State) (nbits w : Nat) : State :=
  { s with imem := placeWord s.imem s.ip (tableWord nbits w), status := .running }

end Sys2Proof.Machine
end

