-- ==== Sys2Proof/Machine/Output.lean ====
section
/-! DEFINITION. What leaves the block: the result snapshot (R92), and the renderings of the result (R93), of the log
(R71) and of an instruction (R74). The serialization syntax around them is outside the spec (R7). -/

namespace Sys2Proof.Machine

/-! ## The result snapshot -/

/-- The result of a run that is done (R92): touched registers and dumped cells, each with its signed value. The
order of the entries carries no meaning (R93); here it is ascending. -/
structure Snapshot where
  registers : List (RegIdx × Int)
  memory    : List (Nat × Int)
deriving DecidableEq, Repr

/-- The addresses `start <= a < end`; none where `end <= start` (R48). -/
def dumpAddresses (start stop : Nat) : List Nat :=
  List.range' start (stop - start)

/-- The result snapshot of a state (R28, R48, R92). -/
def State.snapshot (s : State) : Snapshot :=
  { registers := ((List.finRange 64).filter s.isTouched).map fun r => (r, sint (s.readReg r))
    memory := (dumpAddresses s.params.dumpStart s.params.dumpEnd).map fun a => (a, sint (s.readCell a)) }

/-- The observation of a run (R94). -/
inductive Observation where
  | result (r : Snapshot)
  | fatal (e : Error)
deriving DecidableEq, Repr

/-- What a state shows: a running one shows nothing yet (R92, R94). -/
def State.observe (s : State) : Option Observation :=
  match s.status with
  | .running => none
  | .done => some (.result s.snapshot)
  | .fatal e => some (.fatal e)

/-! ## Renderings -/

/-- A natural number in decimal, without leading zeros. -/
def decimal (n : Nat) : Text :=
  Nat.toDigits 10 n

/-- A signed decimal integer (R93). -/
def signedDecimal (v : Int) : Text :=
  if v < 0 then '-' :: decimal v.natAbs else decimal v.natAbs

/-- Lower-case hexadecimal, zero-padded to at least `width` digits (R71, R93). -/
def paddedHex (width n : Nat) : Text :=
  let digits := Nat.toDigits 16 n
  List.replicate (width - digits.length) '0' ++ digits

/-- `register_<r>` (R93). -/
def registerKey (r : RegIdx) : Text :=
  ['r', 'e', 'g', 'i', 's', 't', 'e', 'r', '_'] ++ decimal r.val

/-- `0x<addr>`, at least 4 digits (R93). -/
def addressKey (a : Nat) : Text :=
  ['0', 'x'] ++ paddedHex 4 a

/-- The key `memory` of the nested mapping (R93, D14). -/
def memoryKey : Text :=
  ['m', 'e', 'm', 'o', 'r', 'y']

/-- `line_<n>` (R71). -/
def lineKey (n : Nat) : Text :=
  ['l', 'i', 'n', 'e', '_'] ++ decimal n

/-- `0x<8 hex digits>` of a word (R71). -/
def wordHex (w : InsnWord) : Text :=
  ['0', 'x'] ++ paddedHex 8 w.toNat

/-- A value of the result output: a signed decimal, or the nested mapping of the dump (R93). -/
inductive OutputValue where
  | scalar (text : Text)
  | mapping (entries : List (Text × Text))
deriving DecidableEq, Repr

/-- The result output as a structured mapping (R93). -/
def Snapshot.output (r : Snapshot) : List (Text × OutputValue) :=
  r.registers.map (fun e => (registerKey e.1, .scalar (signedDecimal e.2)))
    ++ [(memoryKey, .mapping (r.memory.map fun e => (addressKey e.1, signedDecimal e.2)))]

/-- `MNEMONIC rB, C`, the notation for reading; the assembler does not accept it (R74, D6). R74 lets a printer render C
in decimal or in `0x` hexadecimal. DESIGN CHOICE: decimal, for every C (notes/assumptions/22). -/
def printInstr (i : Instr) : Text :=
  i.mnemonic.toList ++ [' ', 'r'] ++ decimal i.register.val ++ [',', ' '] ++ decimal i.operand.toNat

end Sys2Proof.Machine
end

