-- ==== Sys2Proof/Machine/CellWidth.lean ====
section
/-! DEFINITION. The executor over any kind of cell: XLEN-bit two's complement cells for any XLEN, or unbounded
integers (R9, R21, R22). It is the pseudocode of R77 and R96 to R102 over plain functions, so that a statement can say
that the cell width is unobservable. The machine itself is `Machine.step`. -/

namespace Sys2Proof.Machine

/-- What the executor asks of a cell: the start value, the immediate's value, negation, and its value outside. -/
structure CellKind (α : Type) where
  zero      : α
  ofOperand : Operand → α
  neg       : α → α
  value     : α → Int

/-- XLEN-bit two's complement cells (R11, R21). -/
def CellKind.bits (xlen : Nat) : CellKind (BitVec xlen) :=
  { zero := 0
    ofOperand := fun c => c.setWidth xlen
    neg := fun v => BitVec.ofNat xlen (2 ^ xlen - v.toNat)
    value := BitVec.toInt }

/-- Unbounded mathematical integers (R22). -/
def CellKind.integers : CellKind Int :=
  { zero := 0, ofOperand := fun c => c.toNat, neg := fun v => -v, value := fun v => v }

/-- The state tuple over a kind of cell (R18). -/
structure WideState (α : Type) where
  x       : RegIdx → α
  M       : Nat → α
  ip      : Nat
  touched : RegIdx → Bool
  status  : Status

namespace WideState

variable {α : Type}

/-- The start of a run (R31). -/
def start (K : CellKind α) : WideState α :=
  { x := fun _ => K.zero, M := fun _ => K.zero, ip := 0, touched := fun _ => false, status := .running }

/-- The record and the advance (R87, R88). -/
def retire (s : WideState α) (b : RegIdx) : WideState α :=
  { s with touched := fun r => s.touched r || decide (r = b), ip := s.ip + 1 }

/-- One instruction (R96 to R102). -/
def run (K : CellKind α) (p : RunParams) (w : InsnWord) (s : WideState α) : WideState α :=
  let f := decodeFields w
  let k := f.c.toNat
  let checked (t : WideState α) : WideState α :=
    if k < p.memSize then t else { s with status := .fatal (.outOfBoundsAccess s.ip w k) }
  if f.a = 6 then { s with x := Function.update s.x f.b (K.ofOperand f.c) }.retire f.b
  else if f.a = 8 then checked ({ s with x := Function.update s.x f.b (s.M k) }.retire f.b)
  else if f.a = 25 then checked ({ s with M := Function.update s.M k (s.x f.b) }.retire f.b)
  else if f.a = 10 then checked ({ s with x := Function.update s.x f.b (K.neg (s.M k)) }.retire f.b)
  else if p.strictOpcodes then { s with status := .fatal (.unknownInstruction s.ip w f.a) }
  else s.retire f.b

/-- One step (R77); a run that is over stays as it is. -/
def step (K : CellKind α) (p : RunParams) (imem : List InsnWord) (s : WideState α) : WideState α :=
  match s.status with
  | .running =>
    if s.ip = imem.length then { s with status := .done }
    else match imem[s.ip]? with
      | some w => run K p w s
      | none => s
  | _ => s

/-- `k` steps from the start of a run (R126). -/
def runFrom (K : CellKind α) (p : RunParams) (imem : List InsnWord) : Nat → WideState α
  | 0 => start K
  | k + 1 => step K p imem (runFrom K p imem k)

/-- What the run shows (R92, R94). -/
def observe (K : CellKind α) (p : RunParams) (s : WideState α) : Option Observation :=
  match s.status with
  | .running => none
  | .done =>
    some (.result
      { registers := ((List.finRange 64).filter s.touched).map fun r => (r, K.value (s.x r))
        memory := (dumpAddresses p.dumpStart p.dumpEnd).map fun a => (a, K.value (s.M a)) })
  | .fatal e => some (.fatal e)

end WideState

end Sys2Proof.Machine
end

