-- ==== Sys2Proof/Machine/Assembler.lean ====
section
/-! DEFINITION. The assembler around the encoder: the listing syntax, its errors, its words and its log (R62 to R76).
A listing is a list of bytes; characters are Unicode code points. -/

namespace Sys2Proof.Machine

/-- A Unicode code point. -/
abbrev CodePoint := Nat

/-! ## Lines and characters -/

/-- Cut at each LF; lines are numbered from 1 in file order (R63, D13). -/
def splitLines : List Byte → List (List Byte)
  | [] => [[]]
  | x :: xs =>
    if x = 0x0A then [] :: splitLines xs
    else match splitLines xs with
      | line :: rest => (x :: line) :: rest
      | [] => [[x]]

/-- A continuation byte `10xxxxxx` of UTF-8. -/
def isContinuation (b : Byte) : Bool :=
  decide (0x80 ≤ b.toNat) && decide (b.toNat < 0xC0)

/-- The low six bits of a continuation byte. -/
def continuationBits (b : Byte) : Nat :=
  b.toNat % 0x40

/-- A code point that may be encoded in a sequence whose shortest value is `least`: no overlong form, no surrogate,
none above 0x10FFFF. -/
def isScalar (least cp : CodePoint) : Bool :=
  decide (least ≤ cp) && !(decide (0xD800 ≤ cp) && decide (cp < 0xE000)) && decide (cp < 0x110000)

/-- The code points of bytes that follow a sequence whose bits so far are `acc`, which misses `more` continuation
bytes and whose shortest value is `least`. -/
def decodeUtf8From (acc more : Nat) (least : CodePoint) : List Byte → Option (List CodePoint)
  | [] => if more = 0 then some [] else none
  | b :: rest =>
    if more = 0 then
      if b.toNat < 0x80 then (decodeUtf8From 0 0 0 rest).map (b.toNat :: ·)
      else if b.toNat < 0xC0 then none
      else if b.toNat < 0xE0 then decodeUtf8From (b.toNat % 0x20) 1 0x80 rest
      else if b.toNat < 0xF0 then decodeUtf8From (b.toNat % 0x10) 2 0x800 rest
      else if b.toNat < 0xF8 then decodeUtf8From (b.toNat % 0x08) 3 0x10000 rest
      else none
    else if !isContinuation b then none
    else
      let cp := acc * 0x40 + continuationBits b
      if more = 1 then
        if isScalar least cp then (decodeUtf8From 0 0 0 rest).map (cp :: ·) else none
      else decodeUtf8From cp (more - 1) least rest

/-- The code points of a line; none where it is not valid UTF-8 (R63, D18). -/
def decodeUtf8 (raw : List Byte) : Option (List CodePoint) :=
  decodeUtf8From 0 0 0 raw

/-- Whitespace: space, tab, CR, vertical tab, form feed (R65, G2). -/
def isSpace (c : CodePoint) : Bool :=
  c = 0x20 || c = 0x09 || c = 0x0D || c = 0x0B || c = 0x0C

/-- The maximal runs of characters that are not whitespace; `run` is the run being read, backwards (R65). -/
def tokensFrom (run : List CodePoint) : List CodePoint → List (List CodePoint)
  | [] => if run = [] then [] else [run.reverse]
  | c :: cs =>
    if isSpace c then
      (if run = [] then tokensFrom [] cs else run.reverse :: tokensFrom [] cs)
    else tokensFrom (c :: run) cs

/-- The tokens of a line (R65). A line that is empty after stripping whitespace has none (R64). -/
def tokens (line : List CodePoint) : List (List CodePoint) :=
  tokensFrom [] line

/-! ## Tokens -/

/-- The value of a hexadecimal digit `0-9`, `a-f`, `A-F` (R67). -/
def hexDigit (c : CodePoint) : Option Nat :=
  if 0x30 ≤ c ∧ c ≤ 0x39 then some (c - 0x30)
  else if 0x61 ≤ c ∧ c ≤ 0x66 then some (c - 0x61 + 10)
  else if 0x41 ≤ c ∧ c ≤ 0x46 then some (c - 0x41 + 10)
  else none

/-- Digits read as an unsigned integer of any size, most significant first, after the value `acc` (R68). -/
def hexValueFrom (acc : Nat) : List CodePoint → Option Nat
  | [] => some acc
  | c :: cs =>
    match hexDigit c with
    | some d => hexValueFrom (16 * acc + d) cs
    | none => none

/-- The value of token number `idx`: its first two characters are removed without being examined, and one or more
hexadecimal digits must remain (R67, R68, D11). -/
def parseToken (idx : Nat) (token : List CodePoint) : Except ParseReason Nat :=
  match token.drop 2 with
  | [] => .error (.noDigits idx)
  | digits =>
    match hexValueFrom 0 digits with
    | some v => .ok v
    | none => .error (.notHex idx)

/-- The three values of a line's tokens; the first failure of the order token count, token 0, 1, 2 is the reason
(R66, R116). -/
def parseTokens : List (List CodePoint) → Except ParseReason RawFields
  | [t0, t1, t2] =>
    match parseToken 0 t0 with
    | .error r => .error r
    | .ok v0 =>
      match parseToken 1 t1 with
      | .error r => .error r
      | .ok v1 =>
        match parseToken 2 t2 with
        | .error r => .error r
        | .ok v2 => .ok { opcode := v0, register := v1, operand := v2 }
  | ts => .error (.tokenCount ts.length)

/-! ## Packing -/

/-- The fields of a triple, each value modulo 2^width of its field; exact where the triple is in range (R69). -/
def RawFields.masked (f : RawFields) : Fields :=
  { a := BitVec.ofNat 5 f.opcode, b := Fin.ofNat 64 f.register, c := BitVec.ofNat 21 f.operand }

/-- The word of a triple under the oversize policy, or the field that does not fit (R69). The opcode is not checked
against the recognized ones (R70). -/
def packFields (policy : OversizePolicy) (f : RawFields) : Except (FieldName × Nat) InsnWord :=
  match policy, f.firstOversize with
  | .reject, some bad => .error bad
  | _, _ => .ok (encodeFields (RawFields.masked f))

/-! ## Lines and listings -/

/-- One line: no word where it is blank, its word, or its error (R63 to R69). R116 orders the checks R66, R67 and R69
within a line and does not place R63 among them. DESIGN CHOICE: UTF-8 first, so a line that is not UTF-8 has that
reason whatever else is wrong with it (notes/assumptions/23). -/
def assembleLine (policy : OversizePolicy) (n : Nat) (raw : List Byte) : Except Error (Option InsnWord) :=
  match decodeUtf8 raw with
  | none => .error (.parseError n raw .invalidUtf8)
  | some line =>
    match tokens line with
    | [] => .ok none
    | ts =>
      match parseTokens ts with
      | .error r => .error (.parseError n raw r)
      | .ok f =>
        match packFields policy f with
        | .error (field, v) => .error (.fieldRange n raw field v)
        | .ok w => .ok (some w)

/-- The numbered words of the lines from number `n` on; the first line that fails ends the assembly (R72). -/
def assembleLines (policy : OversizePolicy) (n : Nat) : List (List Byte) → Except Error (List (Nat × InsnWord))
  | [] => .ok []
  | raw :: rest =>
    match assembleLine policy n raw with
    | .error e => .error e
    | .ok none => assembleLines policy (n + 1) rest
    | .ok (some w) =>
      match assembleLines policy (n + 1) rest with
      | .error e => .error e
      | .ok ws => .ok ((n, w) :: ws)

/-- What an assembly makes: the instruction words and one log entry per word (R62, R71). -/
structure Assembly where
  words : List InsnWord
  log   : List (Text × Text)
deriving DecidableEq, Repr

/-- `assemble(source_lines) -> (instruction_words, log_entries)` or its error, all or nothing (R62, R72). -/
def assemble (policy : OversizePolicy) (listing : List Byte) : Except Error Assembly :=
  match assembleLines policy 1 (splitLines listing) with
  | .error e => .error e
  | .ok ws => .ok { words := ws.map (·.2), log := ws.map fun e => (lineKey e.1, wordHex e.2) }

/-! ## Writing a listing -/

/-- The byte of an ASCII character. -/
def asciiByte (c : Char) : Byte :=
  BitVec.ofNat 8 c.toNat

/-- A token of the listing: `0x` and hexadecimal digits, at least `width` of them (R67). DESIGN CHOICE: the digits are
lower-case (notes/assumptions/22). -/
def listingToken (width n : Nat) : Text :=
  ['0', 'x'] ++ paddedHex width n

/-- The listing line of a word, in the form `0x06 0x00 0x05` (R66, R74). DESIGN CHOICE: at least two digits a token and
one space between tokens, as that example has them (notes/assumptions/22). -/
def listingLine (w : InsnWord) : Text :=
  let f := decodeFields w
  listingToken 2 f.a.toNat ++ [' '] ++ listingToken 2 f.b.val ++ [' '] ++ listingToken 2 f.c.toNat

/-- The listing of a word list, each line ended by LF (R63). -/
def listingOf : List InsnWord → List Byte
  | [] => []
  | w :: ws => (listingLine w).map asciiByte ++ 0x0A :: listingOf ws

end Sys2Proof.Machine
end

