-- ==== Sys2Proof/Machine/Run.lean ====
section
/-! DEFINITION. A run: the start-of-run sequence (R126), stepping to the end (R79, R80), the observation (R94), and
the literal snapshot recorder (R87). -/

namespace Sys2Proof.Machine

/-- What a caller asks of the executor: the binary file and the dump range (R9, R80). -/
structure ExecuteRequest where
  binary    : Path
  dumpStart : Int
  dumpEnd   : Int
deriving DecidableEq, Repr

/-- The instruction stream of a binary file's bytes, or its refusal (R33, R107, R108). -/
def loadImage (path : Path) (bytes : List Byte) : Except Error (List InsnWord) :=
  if bytes.length = 0 then .error (.emptyInput path)
  else match wordsOfImage bytes with
    | none => .error (.misalignedBinary path bytes.length)
    | some ws => .ok ws

/-- The start state of a run over a stream (R31, R126 step 5). -/
def startState (cfg : Config) (start stop : Nat) (imem : List InsnWord) : State :=
  { State.reset with
    imem := imem
    params :=
      { memSize := cfg.memSize, strictOpcodes := cfg.strictOpcodes, dumpStart := start, dumpEnd := stop } }

/-- The start of a run, its checks in order: dump range, file present, not empty, whole words (R115, R126).
`file` is the binary's bytes, none where it is missing (R105). -/
def boot (cfg : Config) (req : ExecuteRequest) (file : Option (List Byte)) : Except Error State :=
  if WellFormed.dumpRange cfg.memSize req.dumpStart req.dumpEnd then
    match file with
    | none => .error (.fileNotFound req.binary)
    | some bytes =>
      match loadImage req.binary bytes with
      | .error e => .error e
      | .ok imem => .ok (startState cfg req.dumpStart.toNat req.dumpEnd.toNat imem)
  else .error (.rangeError req.dumpStart req.dumpEnd cfg.memSize)

/-- At most `k` steps, until the status is done or fatal (R126 step 6). A step that answers no next state leaves the
run where it is. -/
def runFor : Nat → State → State
  | 0, s => s
  | k + 1, s =>
    match s.status with
    | .running =>
      match step s with
      | .next t => runFor k t
      | _ => s
    | _ => s

/-- A run from its inputs to its observation (R80, R94). N steps run the stream and one more finds `ip = N`. -/
def execute (cfg : Config) (req : ExecuteRequest) (file : Option (List Byte)) : Option Observation :=
  match boot cfg req file with
  | .error e => some (.fatal e)
  | .ok s => (runFor (s.imem.length + 1) s).observe

/-! ## The literal recorder -/

/-- The register part of the result as the source words it: register keys with the value last recorded (R87). -/
abbrev Records := List (RegIdx × Word)

/-- The value recorded under a register's key. -/
def Records.lookup : Records → RegIdx → Option Word
  | [], _ => none
  | (k, v) :: rest, r => if k = r then some v else Records.lookup rest r

/-- A step with its record: the instruction's register with its value after the step; an error or the end of the run
records nothing (R87). The newest record of a register is found first: the last write wins. -/
def recordStep (s : State) (records : Records) : Option (State × Records) :=
  match step s with
  | .next t =>
    match s.fetch, t.status with
    | some w, .running => some (t, ((decode w).register, t.readReg (decode w).register) :: records)
    | _, _ => some (t, records)
  | _ => none

/-- At most `k` steps, recording (R87). -/
def recordedRun : Nat → State → Records → State × Records
  | 0, s, records => (s, records)
  | k + 1, s, records =>
    match recordStep s records with
    | some (t, records') => recordedRun k t records'
    | none => (s, records)

end Sys2Proof.Machine
end

