-- ==== Sys2Proof/Machine/Invoke.lean ====
section
/-! DEFINITION. One invocation of the toolchain: assemble, execute, both or neither (R113, R130), over the files it
reads and writes. Its command-line syntax is outside the spec (R7). -/

namespace Sys2Proof.Machine

/-- The files an invocation can see: paths and contents, the first entry of a path being its file. -/
abbrev Files := List (Path × List Byte)

/-- The contents of a file; none where there is no such file (R105). -/
def Files.get : Files → Path → Option (List Byte)
  | [], _ => none
  | (p, bytes) :: rest, q => if p = q then some bytes else Files.get rest q

/-- What a caller asks of the assembler: the listing to read and the binary file to write. -/
structure AssembleRequest where
  listing : Path
  binary  : Path
deriving DecidableEq, Repr

/-- What one invocation asks: either, both or neither (R130). -/
structure Invocation where
  assemble : Option AssembleRequest
  execute  : Option ExecuteRequest
deriving DecidableEq, Repr

/-- What an invocation leaves: the files, the log and the result where they are written, and the error where one
ended it (R72, R94, R103). -/
structure InvocationOutcome where
  files  : Files
  log    : Option (List (Text × Text))
  result : Option (List (Text × OutputValue))
  error  : Option Error
deriving DecidableEq, Repr

/-- The assembly of a request: its binary file's bytes and its log, or its error (R61, R72, R105). -/
def assembleRequest (cfg : Config) (files : Files) (req : AssembleRequest) :
    Except Error (List Byte × List (Text × Text)) :=
  match files.get req.listing with
  | none => .error (.fileNotFound req.listing)
  | some listing =>
    match assemble cfg.oversizePolicy listing with
    | .error e => .error e
    | .ok out => .ok (imageOfWords out.words, out.log)

/-- The execution of a request after what the invocation has done so far (R94). -/
def executeAfter (cfg : Config) (sofar : InvocationOutcome) (req : ExecuteRequest) : InvocationOutcome :=
  match execute cfg req (sofar.files.get req.binary) with
  | some (.result r) => { sofar with result := some r.output }
  | some (.fatal e) => { sofar with error := some e }
  | none => sofar

/-- An invocation: neither is a usage error (R113); the assembly comes first, and its error ends the invocation
before the execution starts (R130). -/
def invoke (cfg : Config) (files : Files) (inv : Invocation) : InvocationOutcome :=
  let start : InvocationOutcome := { files := files, log := none, result := none, error := none }
  match inv.assemble, inv.execute with
  | none, none => { start with error := some .usageError }
  | none, some ex => executeAfter cfg start ex
  | some asm, ex =>
    match assembleRequest cfg files asm with
    | .error e => { start with error := some e }
    | .ok (bytes, log) =>
      let assembled : InvocationOutcome := { start with files := (asm.binary, bytes) :: files, log := some log }
      match ex with
      | none => assembled
      | some ex => executeAfter cfg assembled ex

end Sys2Proof.Machine
end

