-- ==== Sys2Proof/Machine/Datapath.lean ====
section
/-! DEFINITION. The block as hardware: the dispatch multiplexer, the register-file ports, the write-data multiplexer
and the memory interface (R83 to R86), and the step they make (R77). It is written from the control table, not from
the instructions' meanings; a statement says that the two agree. -/

namespace Sys2Proof.Machine

/-- What the write port takes (R86). -/
inductive WriteSource where
  | imm
  | mem
  | negMem
deriving DecidableEq, Repr

/-- The control signals of one opcode (R83); `wsel` is none where the table has no source. -/
structure Control where
  unknown : Bool
  rfWe    : Bool
  wsel    : Option WriteSource
  memRe   : Bool
  memWe   : Bool
  chk     : Bool
deriving DecidableEq, Repr

/-- The dispatch multiplexer, a function of the opcode alone (R83). -/
def dispatch (a : Opcode) : Control :=
  if a = 6 then { unknown := false, rfWe := true, wsel := some .imm, memRe := false, memWe := false, chk := false }
  else if a = 8 then { unknown := false, rfWe := true, wsel := some .mem, memRe := true, memWe := false, chk := true }
  else if a = 25 then { unknown := false, rfWe := false, wsel := none, memRe := false, memWe := true, chk := true }
  else if a = 10 then { unknown := false, rfWe := true, wsel := some .negMem, memRe := true, memWe := false, chk := true }
  else { unknown := true, rfWe := false, wsel := none, memRe := false, memWe := false, chk := false }

/-- The write-data multiplexer (R86). With no source selected the port is not enabled and its data is unused. -/
def writeData (wsel : Option WriteSource) (c : Operand) (mdata : Word) : Word :=
  match wsel with
  | some .imm => immediate c
  | some .mem => mdata
  | some .negMem => negate mdata
  | none => 0

/-- The write port: `rf_we`, `rf_waddr`, `rf_wdata` (R85). -/
def writePort (rfWe : Bool) (rfWaddr : RegIdx) (rfWdata : Word) (s : State) : State :=
  if rfWe then s.writeReg rfWaddr rfWdata else s

/-- The memory interface's write side: `mem_we`, `mem_addr`, `mem_wdata` (R86). -/
def memWritePort (memWe : Bool) (memAddr : Operand) (memWdata : Word) (s : State) : State :=
  if memWe then s.writeCell (cellIndex memAddr) memWdata else s

/-- `oob` (R86). -/
def oob (ctl : Control) (c : Operand) (s : State) : Bool :=
  ctl.chk && !decide (cellIndex c < s.params.memSize)

/-- One fetched word through the block, in the order of R77 and R89: the checks, the read port and the memory read,
the memory write, the register write, the record, the advance. -/
def datapath (w : InsnWord) (s : State) : Host.Outcome State Fault Refusal :=
  let f := decodeFields w
  let ctl := dispatch f.a
  if oob ctl f.c s then raise (.outOfBoundsAccess s.ip w (cellIndex f.c)) s
  else if ctl.unknown && s.params.strictOpcodes then raise (.unknownInstruction s.ip w f.a) s
  else
    let rdata := s.readReg f.b
    let mdata := if ctl.memRe then s.readCell (cellIndex f.c) else 0
    let s1 := memWritePort ctl.memWe f.c rdata s
    let s2 := writePort ctl.rfWe f.b (writeData ctl.wsel f.c mdata) s1
    .next ((s2.touch f.b).advance)

end Sys2Proof.Machine
end

