-- ==== Sys2Proof/Machine/Observer.lean ====
section
/-! DEFINITION. The optional diagnostics observer (R124): what it sees of each parse, decode and dispatch. It reads
and writes nothing of the block; its output format is outside the spec (R7). R124 does not say what counts as one
action nor what the observer is shown of it: the events here are a DESIGN CHOICE (notes/assumptions/24). -/

namespace Sys2Proof.Machine

/-- One action the observer sees (R124). DESIGN CHOICE: a parse shows the line's number and bytes, a decode `ip`, the
word and its fields, a dispatch `ip` and the control signals (notes/assumptions/24). -/
inductive Event where
  | parsed (line : Nat) (rawLine : List Byte)
  | decoded (ip : Nat) (word : InsnWord) (fields : Fields)
  | dispatched (ip : Nat) (control : Control)
deriving DecidableEq, Repr

/-- What the observer sees of a step: the decode and the dispatch of the word that a running step fetches. DESIGN
CHOICE: both also of a step that raises an error, and nothing of the closing step at `ip = N`
(notes/assumptions/24). -/
def stepEvents (s : State) : List Event :=
  match s.status, s.fetch with
  | .running, some w => [.decoded s.ip w (decodeFields w), .dispatched s.ip (dispatch (decodeFields w).a)]
  | _, _ => []

/-- A run of at most `k` steps under the observer: the state, and what was seen, oldest first. -/
def observedRun : Nat → State → List Event → State × List Event
  | 0, s, seen => (s, seen)
  | k + 1, s, seen =>
    match step s with
    | .next t => observedRun k t (seen ++ stepEvents s)
    | _ => (s, seen)

/-- What the observer sees of an assembly: each line up to the one that ends it (R72). DESIGN CHOICE: one event for
every line examined, the blank ones and the one that fails too (notes/assumptions/24). -/
def assemblyEvents (policy : OversizePolicy) (n : Nat) : List (List Byte) → List Event
  | [] => []
  | raw :: rest =>
    match assembleLine policy n raw with
    | .error _ => [.parsed n raw]
    | .ok _ => .parsed n raw :: assemblyEvents policy (n + 1) rest

end Sys2Proof.Machine
end

