-- ==== Sys2Proof/Safety.lean ====
section
/-! DEFINITION. What the claims about runs are stated in: the invariants of a run and the states it can reach. -/

namespace Sys2Proof.Safety

open Sys2Proof.Machine

/-- The signed range of every value a run can hold: `[-(2^21 - 1), 2^21 - 1]` (R22). -/
abbrev valueInRange (v : Word) : Prop :=
  -(2 ^ 21 - 1) ≤ v.toInt ∧ v.toInt ≤ 2 ^ 21 - 1

/-- Every register and every cell is in that range (R22). -/
abbrev ValuesInRange (s : State) : Prop :=
  (∀ r, valueInRange (s.readReg r)) ∧ ∀ a, valueInRange (s.readCell a)

/-- The memory is canonical and lists only cells that exist (R25, R36). -/
abbrev MemorySound (s : State) : Prop :=
  Memory.wf s.mem ∧ ∀ e ∈ s.mem, e.1 < s.params.memSize

/-- `ip` is in `0..N`; a run is done at N and nowhere else, and an error stops it before N (R23, R29, R79). -/
abbrev ProgressSound (s : State) : Prop :=
  s.ip ≤ s.imem.length ∧
  match s.status with
  | .running => True
  | .done => s.ip = s.imem.length
  | .fatal _ => s.ip < s.imem.length

/-- `k` steps, each answering a next state, lead from `s` to `t`. -/
inductive Steps : Nat → State → State → Prop where
  | refl (s : State) : Steps 0 s s
  | tail {k : Nat} {s t u : State} (before : Steps k s t) (last : step t = .next u) : Steps (k + 1) s u

/-- An instruction whose opcode has semantics (R2). -/
abbrev Recognized (a : Opcode) : Prop :=
  a = 6 ∨ a = 8 ∨ a = 25 ∨ a = 10

/-- An instruction that accesses the data memory (R38). -/
abbrev AccessesMemory (a : Opcode) : Prop :=
  a = 8 ∨ a = 25 ∨ a = 10

/-- The 28 unrecognized opcodes with their instructions (R101). -/
def unrecognizedOpcodes : List (Opcode × (RegIdx → Operand → Instr)) :=
  [ (0, .unk0), (1, .unk1), (2, .unk2), (3, .unk3), (4, .unk4), (5, .unk5), (7, .unk7)
  , (9, .unk9), (11, .unk11), (12, .unk12), (13, .unk13), (14, .unk14), (15, .unk15), (16, .unk16)
  , (17, .unk17), (18, .unk18), (19, .unk19), (20, .unk20), (21, .unk21), (22, .unk22), (23, .unk23)
  , (24, .unk24), (26, .unk26), (27, .unk27), (28, .unk28), (29, .unk29), (30, .unk30), (31, .unk31) ]

/-- From `s` to `t` the instruction's register was recorded and `ip` advanced; the status, the stream and the
parameters stayed (R27, R30, R87, R88). Registers and cells are said apart. -/
abbrev Retired (b : RegIdx) (s t : State) : Prop :=
  (∀ r, t.isTouched r = (s.isTouched r || decide (r = b))) ∧ t.ip = s.ip + 1 ∧
  t.status = s.status ∧ t.imem = s.imem ∧ t.params = s.params

/-- Every register but `b` is unchanged. -/
abbrev OtherRegistersKept (b : RegIdx) (s t : State) : Prop :=
  ∀ r, r ≠ b → t.readReg r = s.readReg r

/-- Every register is unchanged. -/
abbrev RegistersKept (s t : State) : Prop :=
  ∀ r, t.readReg r = s.readReg r

/-- Every cell is unchanged. -/
abbrev CellsKept (s t : State) : Prop :=
  ∀ a, t.readCell a = s.readCell a

end Sys2Proof.Safety
end

