-- ==== Sys2Proof/Certificates/Slice0/Obligations.lean ====
section
/-! DEFINITION. The statements for the provers, by subject. "Stated" ones formalise a rule of the spec; each
docstring says which. -/

open Sys2Proof Sys2Proof.Machine Sys2Proof.Safety

/-! ## The codec -/

/-- For every 32-bit word w the decoder answers a triple (it is a total function) with a = w mod 32, b = (w >> 5)
mod 64 and c = w >> 11, and the fields are the bits w[4:0], w[10:5] and w[31:11] (R50). -/
def Obligations.DecoderReadsTheThreeBitFields : Prop :=
  ∀ w : InsnWord,
    (decodeFields w).a.toNat = w.toNat % 32 ∧
    (decodeFields w).b.val = w.toNat / 2 ^ 5 % 64 ∧
    (decodeFields w).c.toNat = w.toNat / 2 ^ 11 ∧
    (∀ k, k < 5 → (decodeFields w).a.getLsbD k = w.getLsbD k) ∧
    (∀ k, k < 6 → (decodeFields w).b.val.testBit k = w.getLsbD (5 + k)) ∧
    (∀ k, k < 21 → (decodeFields w).c.getLsbD k = w.getLsbD (11 + k))

/-- For every field triple the encoder's word is a + 32*b + 2048*c (R52); the fields are as wide as the encoder's
ports (R53), so no triple is out of range. -/
def Obligations.EncoderPacksTheThreeFields : Prop :=
  ∀ f : Fields, (encodeFields f).toNat = f.a.toNat + 32 * f.b.val + 2048 * f.c.toNat

/-- decode(encode(a, b, c)) = (a, b, c) for every field triple, and encode(decode(w)) = w for every word w; so the
decoder is a bijection between words and triples (R54). -/
def Obligations.FieldCodecIsABijection : Prop :=
  (∀ f : Fields, decodeFields (encodeFields f) = f) ∧
  (∀ w : InsnWord, encodeFields (decodeFields w) = w) ∧
  Function.Bijective decodeFields

/-- For every instruction i, of all 32 constructors with every operand value, decode of encode i is i; for every
32-bit word w, encode of decode w is w; and at the level of bytes, decoding the four bytes of i followed by any
bytes gives i and those bytes. -/
def Obligations.DecodeAndEncodeOfInstructionsAgree : Prop :=
  (∀ i : Instr, decode (encode i) = i) ∧
  (∀ w : InsnWord, encode (decode w) = w) ∧
  (∀ (i : Instr) (rest : List Byte), decodeBytes (encodeBytes i ++ rest) = .ok (i, rest))

/-- For every word w there is a row of the opcode table (32 rows, match and mask) that covers w, it is the only row
that does, and the decoder answers that row's instruction with w's register and operand fields and that row's
mnemonic. -/
def Obligations.OpcodeTableDecidesEveryWord : Prop :=
  opcodeTable.length = 32 ∧
  ∀ w : InsnWord, ∃ row ∈ opcodeTable, row.covers w = true ∧
    (∀ other ∈ opcodeTable, other.covers w = true → other = row) ∧
    decode w = row.make (decodeFields w).b (decodeFields w).c ∧
    (decode w).mnemonic = row.mnemonic

/-- The opcode selects the mnemonic: 6 LOAD_CONST, 8 READ_MEM, 25 WRITE_MEM, 10 NEG_MEM, any other value a the
mnemonic UNK<a>; two words with equal bits [4:0] have the same mnemonic whatever their other fields (R57). -/
def Obligations.OpcodeFieldAloneSelectsTheOperation : Prop :=
  (∀ w : InsnWord,
    (w &&& 0x1F = 0x06 → (decode w).mnemonic = "LOAD_CONST") ∧
    (w &&& 0x1F = 0x08 → (decode w).mnemonic = "READ_MEM") ∧
    (w &&& 0x1F = 0x19 → (decode w).mnemonic = "WRITE_MEM") ∧
    (w &&& 0x1F = 0x0A → (decode w).mnemonic = "NEG_MEM") ∧
    (¬ Recognized (decodeFields w).a →
      ∃ make, ((decodeFields w).a, make) ∈ unrecognizedOpcodes ∧
        decode w = make (decodeFields w).b (decodeFields w).c ∧
        (decode w).mnemonic = "UNK" ++ String.ofList (decimal (decodeFields w).a.toNat))) ∧
  (∀ w w' : InsnWord, w &&& 0x1F = w' &&& 0x1F → (decode w).mnemonic = (decode w').mnemonic)

/-- The words 0x00002806, 0x001FFFE8, 0x00005019, 0x0000184A, 0x0000001F, 0xFFFFF8BF and 0x00000120 of the spec's
test vectors decode to LOAD_CONST r0,5, READ_MEM r63,1023, WRITE_MEM r0,10, NEG_MEM r2,3, UNK31 r0,0, UNK31
r5,0x1FFFFF and UNK0 r9,0. -/
def Obligations.KnownWordsDecode : Prop :=
  decode 0x00002806 = .loadConst 0 5 ∧ decode 0x001FFFE8 = .readMem 63 1023 ∧
  decode 0x00005019 = .writeMem 0 10 ∧ decode 0x0000184A = .negMem 2 3 ∧
  decode 0x0000001F = .unk31 0 0 ∧ decode 0xFFFFF8BF = .unk31 5 0x1FFFFF ∧ decode 0x00000120 = .unk0 9 0

/-- A file whose length is a positive multiple of 4 holds N = L/4 words, and word k has the value byte[4k] + 2^8
byte[4k+1] + 2^16 byte[4k+2] + 2^24 byte[4k+3] (R33). That little-endian means this byte order is general knowledge
in the spec (G1) and PRESUMED in the model (notes/assumptions/13). -/
def Obligations.BinaryFileHoldsLittleEndianWords : Prop :=
  ∀ bytes : List Byte, 0 < bytes.length → bytes.length % 4 = 0 →
    ∃ ws, wordsOfImage bytes = some ws ∧ ws.length = bytes.length / 4 ∧
      ∀ k, k < ws.length →
        (ws.getD k 0).toNat = (bytes.getD (4 * k) 0).toNat + 2 ^ 8 * (bytes.getD (4 * k + 1) 0).toNat
          + 2 ^ 16 * (bytes.getD (4 * k + 2) 0).toNat + 2 ^ 24 * (bytes.getD (4 * k + 3) 0).toNat

/-- The file of a word list is the concatenation, in order, of each word's four bytes w[7:0], w[15:8], w[23:16],
w[31:24], with nothing before, between or after, and reading it gives back exactly those words (R61, R75). That
little-endian means this byte order is PRESUMED (notes/assumptions/13). -/
def Obligations.ImageOfWordsReadsBack : Prop :=
  (∀ w : InsnWord, bytesOfWord w =
    [w.extractLsb' 0 8, w.extractLsb' 8 8, w.extractLsb' 16 8, w.extractLsb' 24 8]) ∧
  (∀ ws : List InsnWord, imageOfWords ws = ws.flatMap bytesOfWord) ∧
  (∀ ws : List InsnWord, wordsOfImage (imageOfWords ws) = some ws)

/-! ## The instructions -/

/-- For every register b, operand c and state, LOAD_CONST answers a next state in which x[b] is c zero-extended,
every other register and every cell is unchanged, b is recorded and ip advanced by 1, the status, the stream and the
parameters unchanged; c may be MEM_SIZE or more. Its word is 6 + 32*b + 2048*c (R96). -/
def Obligations.LoadConstWritesItsImmediate : Prop :=
  ∀ (b : RegIdx) (c : Operand) (s : State),
    (encode (.loadConst b c)).toNat = 6 + 32 * b.val + 2048 * c.toNat ∧
    ∃ t, exec (.loadConst b c) s = .next t ∧
      (t.readReg b).toNat = c.toNat ∧ OtherRegistersKept b s t ∧ CellsKept s t ∧ Retired b s t

/-- For every register b, operand c and state: where c < MEM_SIZE, READ_MEM answers a next state in which x[b] is
M[c], every other register and every cell is unchanged, b is recorded and ip advanced by 1; where c >= MEM_SIZE it
raises OutOfBoundsAccessError(ip, c), which changes the status and nothing else. Its word is 8 + 32*b + 2048*c
(R97). -/
def Obligations.ReadMemCopiesTheCell : Prop :=
  ∀ (b : RegIdx) (c : Operand) (s : State),
    (encode (.readMem b c)).toNat = 8 + 32 * b.val + 2048 * c.toNat ∧
    (c.toNat < s.params.memSize →
      ∃ t, exec (.readMem b c) s = .next t ∧
        t.readReg b = s.readCell c.toNat ∧ OtherRegistersKept b s t ∧ CellsKept s t ∧ Retired b s t) ∧
    (s.params.memSize ≤ c.toNat →
      exec (.readMem b c) s =
        .next { s with status := .fatal (.outOfBoundsAccess s.ip (encode (.readMem b c)) c.toNat) })

/-- For every register b, operand c and state: where c < MEM_SIZE, WRITE_MEM answers a next state in which M[c] is
x[b], every other cell and every register is unchanged, b is recorded and ip advanced by 1, and the stream is
unchanged; where c >= MEM_SIZE it raises OutOfBoundsAccessError(ip, c), which changes the status and nothing else.
Its word is 25 + 32*b + 2048*c (R98). -/
def Obligations.WriteMemStoresTheRegister : Prop :=
  ∀ (b : RegIdx) (c : Operand) (s : State),
    (encode (.writeMem b c)).toNat = 25 + 32 * b.val + 2048 * c.toNat ∧
    (c.toNat < s.params.memSize →
      ∃ t, exec (.writeMem b c) s = .next t ∧
        t.readCell c.toNat = s.readReg b ∧ (∀ a, a ≠ c.toNat → t.readCell a = s.readCell a) ∧
        RegistersKept s t ∧ Retired b s t) ∧
    (s.params.memSize ≤ c.toNat →
      exec (.writeMem b c) s =
        .next { s with status := .fatal (.outOfBoundsAccess s.ip (encode (.writeMem b c)) c.toNat) })

/-- For every register b, operand c and state: where c < MEM_SIZE, NEG_MEM answers a next state in which x[b] is
(2^32 - uint(M[c])) mod 2^32, so 0 for 0 and the exact integer negation but for the cell value -2^31, every other
register and every cell is unchanged, b is recorded and ip advanced by 1; where c >= MEM_SIZE it raises
OutOfBoundsAccessError(ip, c), which changes the status and nothing else. Its word is 10 + 32*b + 2048*c (R99). -/
def Obligations.NegMemNegatesTheCell : Prop :=
  ∀ (b : RegIdx) (c : Operand) (s : State),
    (encode (.negMem b c)).toNat = 10 + 32 * b.val + 2048 * c.toNat ∧
    (c.toNat < s.params.memSize →
      ∃ t, exec (.negMem b c) s = .next t ∧
        (t.readReg b).toNat = (2 ^ 32 - (s.readCell c.toNat).toNat) % 2 ^ 32 ∧
        ((s.readCell c.toNat).toInt ≠ -2 ^ 31 → (t.readReg b).toInt = -(s.readCell c.toNat).toInt) ∧
        ((s.readCell c.toNat).toInt = -2 ^ 31 → (t.readReg b).toInt = -2 ^ 31) ∧
        OtherRegistersKept b s t ∧ CellsKept s t ∧ Retired b s t) ∧
    (s.params.memSize ≤ c.toNat →
      exec (.negMem b c) s =
        .next { s with status := .fatal (.outOfBoundsAccess s.ip (encode (.negMem b c)) c.toNat) })

/-- With STRICT_OPCODES = false, each of UNK0 to UNK5, UNK7, UNK9, UNK11 to UNK24 and UNK26 to UNK31 answers, for
every register b, operand c (MEM_SIZE or more too) and state, a next state in which every register and every cell is
unchanged, b is recorded and ip advanced by 1. The word of UNK<a> is a + 32*b + 2048*c (R101). -/
def Obligations.UnrecognizedOpcodesOnlyRecord : Prop :=
  ∀ (a : Opcode) (make : RegIdx → Operand → Instr), (a, make) ∈ unrecognizedOpcodes →
    ∀ (b : RegIdx) (c : Operand) (s : State), s.params.strictOpcodes = false →
      (encode (make b c)).toNat = a.toNat + 32 * b.val + 2048 * c.toNat ∧
      ∃ t, exec (make b c) s = .next t ∧ RegistersKept s t ∧ CellsKept s t ∧ Retired b s t

/-- With STRICT_OPCODES = true, each of the 28 unrecognized opcodes raises UnknownInstruction(ip, a), which changes
the status and nothing else (R102). -/
def Obligations.StrictOpcodesRaiseUnknownInstruction : Prop :=
  ∀ (a : Opcode) (make : RegIdx → Operand → Instr), (a, make) ∈ unrecognizedOpcodes →
    ∀ (b : RegIdx) (c : Operand) (s : State), s.params.strictOpcodes = true →
      exec (make b c) s =
        .next { s with status := .fatal (.unknownInstruction s.ip (encode (make b c)) a) }

/-- With STRICT_OPCODES = false, two words with the same unrecognized opcode and the same register field have the
same effect on every state, whatever their operand fields. -/
def Obligations.UnrecognizedOpcodesIgnoreTheirOperand : Prop :=
  ∀ (a : Opcode) (b : RegIdx) (c c' : Operand) (s : State), ¬ Recognized a → s.params.strictOpcodes = false →
    exec (Instr.ofFields ⟨a, b, c⟩) s = exec (Instr.ofFields ⟨a, b, c'⟩) s

/-- From a running state, an instruction answers a next state; that state's status is OutOfBoundsAccessError with
some info if and only if the opcode is READ_MEM, WRITE_MEM or NEG_MEM and c >= MEM_SIZE; and then the info is ip,
the instruction's word and c and nothing but the status changed. So LOAD_CONST and unrecognized opcodes never raise
it (R110). -/
def Obligations.OutOfBoundsIsRaisedByMemoryAccessesOnly : Prop :=
  ∀ (i : Instr) (s : State), s.status = .running →
    ∃ t, exec i s = .next t ∧
      ((∃ ip word address, t.status = .fatal (.outOfBoundsAccess ip word address)) ↔
        AccessesMemory i.opcode ∧ s.params.memSize ≤ i.operand.toNat) ∧
      (AccessesMemory i.opcode → s.params.memSize ≤ i.operand.toNat →
        t = { s with status := .fatal (.outOfBoundsAccess s.ip (encode i) i.operand.toNat) })

/-- In a state whose registers and cells are all in [-(2^21 - 1), 2^21 - 1], NEG_MEM with c < MEM_SIZE answers a
next state in which sint(x[b]) is exactly -sint(M[c]); that range is the invariant of ValuesStayInRange. -/
def Obligations.NegationIsExactOnReachableValues : Prop :=
  ∀ (b : RegIdx) (c : Operand) (s : State), ValuesInRange s → c.toNat < s.params.memSize →
    ∃ t, exec (.negMem b c) s = .next t ∧ sint (t.readReg b) = -sint (s.readCell c.toNat)

/-- For every 32-bit word and every state the decoded instruction answers a next state, never a fault or a refusal. -/
def Obligations.EveryWordExecutes : Prop :=
  ∀ (w : InsnWord) (s : State), ∃ t, exec (decode w) s = .next t

/-! ## The step -/

/-- Where the status is running and IMEM[ip] is the word w (so ip < N), step answers what exec of decode w answers
at that state: the step adds nothing around it, and the advance of ip is the instruction's own. -/
def Obligations.StepRunsTheDecodedInstruction : Prop :=
  ∀ (s : State) (w : InsnWord), s.status = .running → s.imem[s.ip]? = some w →
    step s = exec (decode w) s

/-- Where the status is running and ip = N, step answers the same state with status done. Where the status is done
or fatal, step answers no next state (the names of the stops are the model's, notes/assumptions/6). -/
def Obligations.StepAtEndOfStreamIsDone : Prop :=
  (∀ s : State, s.status = .running → s.ip = s.imem.length → step s = .next { s with status := .done }) ∧
  (∀ s : State, s.status = .done → step s = .fault .runDone) ∧
  (∀ (s : State) (e : Error), s.status = .fatal e → step s = .fault (.runFatal e))

/-- In every state with ip and status as a run leaves them (ProgressSound), step answers a next state if and only if
the status is running; and in every state, step never refuses. -/
def Obligations.StepAnswersNextExactlyWhileRunning : Prop :=
  (∀ s : State, ProgressSound s → ((∃ t, step s = .next t) ↔ s.status = .running)) ∧
  (∀ (s : State) (r : Refusal), step s ≠ .refused r)

/-- For all 32 opcodes, from a running state: if the instruction's next state is not fatal, T is the old T with the
register field b added and nothing else, and the value recorded for b is x[b] after the step's own write, which the
snapshot of the next state shows for b (R87). -/
def Obligations.EveryInstructionRecordsItsRegister : Prop :=
  ∀ (i : Instr) (s t : State), s.status = .running → exec i s = .next t → t.status = .running →
    (∀ r, t.isTouched r = (s.isTouched r || decide (r = i.register))) ∧
    (i.register, sint (t.readReg i.register)) ∈ t.snapshot.registers

/-- For every instruction and every running state: if the next state is not fatal, its ip is ip + 1; if it is fatal,
its ip is unchanged (R88). -/
def Obligations.IpAdvancesByOneOrTheRunEnds : Prop :=
  ∀ (i : Instr) (s t : State), s.status = .running → exec i s = .next t →
    ((t.status = .running ∧ t.ip = s.ip + 1) ∨ ((∃ e, t.status = .fatal e) ∧ t.ip = s.ip))

/-- Whatever step is taken, the stream and the run's parameters are unchanged, and so the word any index fetches is
the same. -/
def Obligations.NoStepWritesTheStreamOrTheParameters : Prop :=
  ∀ s t : State, step s = .next t → t.imem = s.imem ∧ t.params = s.params ∧ ∀ k : Nat, t.imem[k]? = s.imem[k]?

/-- From a state where the word w at ip is run: a register that changed is w's register field, and the opcode is 6,
8 or 10; a cell that changed is w's operand, below MEM_SIZE, and the opcode is 25; so no step changes both. -/
def Obligations.StepWritesOnlyItsRegisterAndCell : Prop :=
  ∀ (s t : State) (w : InsnWord), s.status = .running → s.imem[s.ip]? = some w → step s = .next t →
    (∀ r, t.readReg r ≠ s.readReg r →
      r = (decodeFields w).b ∧
        ((decodeFields w).a = 6 ∨ (decodeFields w).a = 8 ∨ (decodeFields w).a = 10)) ∧
    (∀ a, t.readCell a ≠ s.readCell a →
      a = (decodeFields w).c.toNat ∧ a < s.params.memSize ∧ (decodeFields w).a = 25)

/-- For every instruction other than WRITE_MEM: changing the register file before it changes nothing of memory, T,
ip and status after it, nor the value of the register it writes. -/
def Obligations.OnlyWriteMemReadsARegister : Prop :=
  ∀ (i : Instr) (s t t' : State) (other : Vector Word 64), i.opcode ≠ 25 → s.status = .running →
    exec i s = .next t → exec i { s with regs := other } = .next t' →
    t'.mem = t.mem ∧ t'.touched = t.touched ∧ t'.ip = t.ip ∧ t'.status = t.status ∧
    (Recognized i.opcode → t.status = .running → t'.readReg i.register = t.readReg i.register)

/-- If a step of a running state answers a fatal one, the next state is the old one but for its status, the fetched
word w is at ip, and the error is OutOfBoundsAccessError(ip, w, c) of a memory access with c >= MEM_SIZE, or with
STRICT_OPCODES UnknownInstruction(ip, w, a) of an opcode other than 6, 8, 10 and 25. -/
def Obligations.FailingStepChangesOnlyTheStatus : Prop :=
  ∀ (s t : State) (e : Error), step s = .next t → t.status = .fatal e →
    t = { s with status := .fatal e } ∧
    ∃ w, s.imem[s.ip]? = some w ∧
      ((AccessesMemory (decodeFields w).a ∧ s.params.memSize ≤ (decodeFields w).c.toNat ∧
          e = .outOfBoundsAccess s.ip w (decodeFields w).c.toNat) ∨
        (s.params.strictOpcodes = true ∧ ¬ Recognized (decodeFields w).a ∧
          e = .unknownInstruction s.ip w (decodeFields w).a))

/-- For every constant c, cell a < MEM_SIZE and registers r and q: LOAD_CONST r,c then WRITE_MEM r,a stores c into
M[a]; READ_MEM q,a after them reads c, and NEG_MEM q,a after them reads its negation -c. -/
def Obligations.ReadAfterWriteSeesTheValueWritten : Prop :=
  ∀ (s : State) (r q : RegIdx) (c a : Operand), a.toNat < s.params.memSize →
    ∃ t u v v', exec (.loadConst r c) s = .next t ∧ exec (.writeMem r a) t = .next u ∧
      (u.readCell a.toNat).toNat = c.toNat ∧
      exec (.readMem q a) u = .next v ∧ (v.readReg q).toNat = c.toNat ∧
      exec (.negMem q a) u = .next v' ∧ (v'.readReg q).toInt = -(c.toNat : Int)

/-- For every 32-bit word and every state, one pass through the dispatch multiplexer, the bounds check, the
register-file ports, the memory interface, the write-data multiplexer, the record and the advance (the pseudocode of
R77 with the control table of R83) answers exactly what the decoded instruction's own meaning answers. -/
def Obligations.DatapathRunsEveryInstruction : Prop :=
  ∀ (w : InsnWord) (s : State), datapath w s = exec (decode w) s

/-! ## Runs and their invariants -/

/-- State.reset, and the state every successful start of a run gives: every register and every cell 0, ip 0, T
empty, status running (R31). -/
def Obligations.ResetIsTheStartOfRunState : Prop :=
  ((∀ r, State.reset.readReg r = 0) ∧ (∀ a, State.reset.readCell a = 0) ∧ State.reset.ip = 0 ∧
    (∀ r, State.reset.isTouched r = false) ∧ State.reset.status = .running) ∧
  ∀ (cfg : Config) (req : ExecuteRequest) (file : Option (List Byte)) (s : State), boot cfg req file = .ok s →
    (∀ r, s.readReg r = 0) ∧ (∀ a, s.readCell a = 0) ∧ s.ip = 0 ∧ (∀ r, s.isTouched r = false) ∧
    s.status = .running

/-- State.reset's memory lists no cell and is canonical (the form is the model's choice, notes/assumptions/9), its
values are in range, its ip and status are sound, and its parameters are MEM_SIZE = 1024 and STRICT_OPCODES = false
(R9). Of its stream and its dump range, which are the model's choice (notes/assumptions/4 and 3), nothing more is
said. -/
def Obligations.ResetMeetsTheInvariants : Prop :=
  State.reset.mem = [] ∧ MemorySound State.reset ∧ ValuesInRange State.reset ∧ ProgressSound State.reset ∧
  State.reset.params.memSize = 1024 ∧ State.reset.params.strictOpcodes = false

/-- In every state whose memory is in canonical form (indexes strictly rising, no listed cell 0) and lists only
cells below MEM_SIZE, every step that answers a next state keeps both. (The canonical form is the model's
representation, notes/assumptions/9; that no cell at or above MEM_SIZE is ever written is R38.) -/
def Obligations.MemoryStaysCanonicalAndInBounds : Prop :=
  ∀ s t : State, MemorySound s → step s = .next t → MemorySound t

/-- In every state whose registers and cells are all in the signed range [-(2^21 - 1), 2^21 - 1], every step that
answers a next state keeps that. -/
def Obligations.ValuesStayInRange : Prop :=
  ∀ s t : State, ValuesInRange s → step s = .next t → ValuesInRange t

/-- In every state with ip in 0..N, status done only at ip = N and status fatal only at ip < N, every step that
answers a next state keeps that. -/
def Obligations.ProgressStaysSound : Prop :=
  ∀ s t : State, ProgressSound s → step s = .next t → ProgressSound t

/-- From every state a successful start of a run gives, after any number of steps: the memory is canonical and lists
only cells below MEM_SIZE, every value is in range, ip and status are sound, the stream has at least one word, and
the stream and parameters are those of the start. The canonical form is the model's own representation (DESIGN
CHOICE, notes/assumptions/9); that no cell at or above MEM_SIZE exists or is written is R25, R36 and R38. -/
def Obligations.BootedRunsKeepTheInvariants : Prop :=
  ∀ (cfg : Config) (req : ExecuteRequest) (file : Option (List Byte)) (s t : State) (k : Nat),
    boot cfg req file = .ok s → Steps k s t →
    MemorySound t ∧ ValuesInRange t ∧ ProgressSound t ∧ 0 < t.imem.length ∧ t.imem = s.imem ∧ t.params = s.params

/-- From a running state, k steps that end in a running state have advanced ip by exactly k; k steps that end in a
done state have advanced ip to N by k - 1 steps, the last step being the one that finds ip = N. That the last one is
counted, a closing call of step that sets Done, is the model's reading of the pseudocode of R77 (DEDUCED,
notes/assumptions/8); R79 and R80 count the instructions, at most N. -/
def Obligations.RunTakesOneStepPerWord : Prop :=
  ∀ (s t : State) (k : Nat), s.status = .running → Steps k s t →
    (t.status = .running → t.ip = s.ip + k) ∧
    (t.status = .done → t.ip = s.imem.length ∧ s.ip + k = s.imem.length + 1)

/-- From every state with ip <= N, stepping at most N - ip + 1 times (the last call finds ip = N and runs no
instruction) leaves a status that is not running. That the run is ended by that closing call is the model's reading
of the pseudocode of R77 (DEDUCED, notes/assumptions/8); R79 and R80 count the instructions, at most N. -/
def Obligations.RunEndsWithinItsLength : Prop :=
  ∀ s : State, s.ip ≤ s.imem.length → (runFor (s.imem.length - s.ip + 1) s).status ≠ .running

/-- A run of any number of steps that records, after every instruction, the value of its register under the
register's key (last write wins), and that starts with records that agree with T and the registers (no record where
T is empty), ends with records that hold, for every register in T, exactly its value in the register file, and
nothing for a register outside T (R28). -/
def Obligations.RecordedSnapshotIsTheRegisterFileOnT : Prop :=
  ∀ (k : Nat) (s : State) (records : Records),
    (∀ r, records.lookup r = if s.isTouched r then some (s.readReg r) else none) →
    ∀ r, (recordedRun k s records).2.lookup r =
      if (recordedRun k s records).1.isTouched r then some ((recordedRun k s records).1.readReg r) else none

/-- A done state shows a result whose register entries are exactly (r, sint(x[r])) for r in T and whose memory
entries are exactly (a, sint(M[a])) for start <= a < end, none where end <= start; no key stands twice; a fatal
state shows its error and no result; a running state shows nothing. -/
def Obligations.SnapshotShowsTouchedRegistersAndTheDump : Prop :=
  ∀ s : State,
    (s.status = .done → ∃ res, s.observe = some (.result res) ∧
      (∀ r v, (r, v) ∈ res.registers ↔ s.isTouched r = true ∧ v = (s.readReg r).toInt) ∧
      (∀ a v, (a, v) ∈ res.memory ↔ (s.params.dumpStart ≤ a ∧ a < s.params.dumpEnd) ∧ v = (s.readCell a).toInt) ∧
      (res.registers.map Prod.fst).Nodup ∧ (res.memory.map Prod.fst).Nodup) ∧
    (∀ e, s.status = .fatal e → s.observe = some (.fatal e)) ∧
    (s.status = .running → s.observe = none)

/-- The start of a run fails with RangeError where the dump range is bad; else with FileNotFound where the binary is
missing; else with EmptyInputError where it has length 0; else with MisalignedBinaryError where its length is no
multiple of 4; else it succeeds, with the file's words as the stream and MEM_SIZE, STRICT_OPCODES and the dump range
as given (R115). -/
def Obligations.StartOfRunChecksInOrder : Prop :=
  ∀ (cfg : Config) (req : ExecuteRequest),
    (¬ (0 ≤ req.dumpStart ∧ req.dumpStart < cfg.memSize ∧ 0 ≤ req.dumpEnd ∧ req.dumpEnd ≤ cfg.memSize) →
      ∀ file, boot cfg req file = .error (.rangeError req.dumpStart req.dumpEnd cfg.memSize)) ∧
    (0 ≤ req.dumpStart ∧ req.dumpStart < cfg.memSize ∧ 0 ≤ req.dumpEnd ∧ req.dumpEnd ≤ cfg.memSize →
      boot cfg req none = .error (.fileNotFound req.binary) ∧
      ∀ bytes : List Byte,
        (bytes.length = 0 → boot cfg req (some bytes) = .error (.emptyInput req.binary)) ∧
        (bytes.length % 4 ≠ 0 →
          boot cfg req (some bytes) = .error (.misalignedBinary req.binary bytes.length)) ∧
        (bytes.length ≠ 0 → bytes.length % 4 = 0 →
          ∃ s, boot cfg req (some bytes) = .ok s ∧ wordsOfImage bytes = some s.imem ∧
            s.params.memSize = cfg.memSize ∧ s.params.strictOpcodes = cfg.strictOpcodes ∧
            (s.params.dumpStart : Int) = req.dumpStart ∧ (s.params.dumpEnd : Int) = req.dumpEnd))

/-- The start of a run succeeds if and only if the dump range meets 0 <= start < MEM_SIZE and 0 <= end <= MEM_SIZE
and the binary file is there, is not empty and has a length that is a multiple of 4. -/
def Obligations.RunStartsExactlyOnWellFormedInputs : Prop :=
  ∀ (cfg : Config) (req : ExecuteRequest) (file : Option (List Byte)),
    (∃ s, boot cfg req file = .ok s) ↔
      WellFormed.dumpRange cfg.memSize req.dumpStart req.dumpEnd ∧
      ∃ bytes, file = some bytes ∧ WellFormed.binary bytes

/-- Where 1 <= MEM_SIZE <= 2^21, every cell index below MEM_SIZE is the cell index of an operand value, and of one
only. -/
def Obligations.EveryCellHasAnOperand : Prop :=
  ∀ cfg : Config, WellFormed.config cfg → ∀ a, a < cfg.memSize →
    ∃ c : Operand, cellIndex c = a ∧ ∀ c' : Operand, cellIndex c' = a → c' = c

/-- For every configuration, request and binary file an execution has an observation; it is the error of a failed
start, or what a state reached from the booted one by at most N + 1 calls of step shows, that state being done (a
result) or fatal (an error). The one call above N, which sets Done, is the model's reading of the pseudocode of R77
(DEDUCED, notes/assumptions/8); R79 and R80 count the instructions, at most N. -/
def Obligations.ExecutionShowsAResultOrAnError : Prop :=
  ∀ (cfg : Config) (req : ExecuteRequest) (file : Option (List Byte)),
    ∃ o, execute cfg req file = some o ∧
      ((∃ e, boot cfg req file = .error e ∧ o = .fatal e) ∨
       (∃ s t k, boot cfg req file = .ok s ∧ Steps k s t ∧ k ≤ s.imem.length + 1 ∧
          ((t.status = .done ∧ o = .result t.snapshot) ∨ ∃ e, t.status = .fatal e ∧ o = .fatal e)))

/-- For every XLEN >= 22, all parameters, every stream and every number of steps from the start of a run, the
executor over XLEN-bit cells and the executor over unbounded integers have the same status, ip and T, registers and
cells of equal value, and the same observation. -/
def Obligations.CellWidthIsUnobservable : Prop :=
  ∀ (xlen : Nat) (p : RunParams) (imem : List InsnWord) (k : Nat), 22 ≤ xlen →
    let narrow := WideState.runFrom (CellKind.bits xlen) p imem k
    let exact := WideState.runFrom CellKind.integers p imem k
    narrow.status = exact.status ∧ narrow.ip = exact.ip ∧ narrow.touched = exact.touched ∧
    (∀ r, (narrow.x r).toInt = exact.x r) ∧ (∀ a, (narrow.M a).toInt = exact.M a) ∧
    WideState.observe (CellKind.bits xlen) p narrow = WideState.observe CellKind.integers p exact

/-- For every configuration, stream and dump range and every number of steps k, the machine after at most k steps
from the start of a run shows what the executor over unbounded integers (the pseudocode over plain functions) shows
after k steps. -/
def Obligations.MachineObservesTheIntegerRun : Prop :=
  ∀ (cfg : Config) (start stop : Nat) (imem : List InsnWord) (k : Nat),
    let s := startState cfg start stop imem
    (runFor k s).observe =
      WideState.observe CellKind.integers s.params (WideState.runFrom CellKind.integers s.params imem k)

/-- For every number of steps, start state and events already seen, the state a run under the diagnostics observer
reaches is the state the run reaches without it. -/
def Obligations.ObserverChangesNothing : Prop :=
  ∀ (k : Nat) (s : State) (seen : List Event), (observedRun k s seen).1 = runFor k s

/-! ## The assembler -/

/-- For every word list and either oversize policy, assembling its listing (one line of three hexadecimal tokens per
word) gives exactly those words, with one log entry per word, of the line's number and the word's rendering. How
that listing spells its tokens (listingLine) is the model's choice (notes/assumptions/22). -/
def Obligations.AssembledListingGivesTheWordsBack : Prop :=
  ∀ (policy : OversizePolicy) (ws : List InsnWord),
    assemble policy (listingOf ws) =
      .ok { words := ws, log := ws.mapIdx fun k w => (lineKey (k + 1), wordHex w) }

/-- If the lines before line number k + 1 all assemble and that line fails with the error e, the whole assembly
fails with e, whatever lines follow; and an assembly fails only so. That an invalid UTF-8 line takes its place in
that order is an inference of the model from R63 and R72 (DEDUCED, notes/assumptions/12). -/
def Obligations.FirstFailingLineEndsTheAssembly : Prop :=
  ∀ (policy : OversizePolicy) (listing : List Byte) (e : Error),
    assemble policy listing = .error e ↔
      ∃ k raw, (splitLines listing)[k]? = some raw ∧ assembleLine policy (k + 1) raw = .error e ∧
        ∀ j earlier, j < k → (splitLines listing)[j]? = some earlier →
          ∃ o, assembleLine policy (j + 1) earlier = .ok o

/-- An assembly either fails with an error, or every line assembles and the words are exactly those of the lines
that have one, in source order, and the log is exactly line_<n> -> 0x<8 hex digits of the word> for each physical
line number n whose line has a word, in source order; the lines without a word are exactly the blank ones, which
have no token (R62, R64, R71). Which characters are whitespace is PRESUMED (notes/assumptions/14); the renderings
lineKey and wordHex are D14's, and the log being a list in source order is the model's form (notes/assumptions/15). -/
def Obligations.OneWordAndOneLogEntryPerNonBlankLine : Prop :=
  ∀ (policy : OversizePolicy) (listing : List Byte),
    (∃ e, assemble policy listing = .error e) ∨
    ∃ out, assemble policy listing = .ok out ∧
      (∀ k raw, (splitLines listing)[k]? = some raw → ∃ o, assembleLine policy (k + 1) raw = .ok o) ∧
      out.words = ((splitLines listing).mapIdx fun k raw => assembleLine policy (k + 1) raw).filterMap
        (fun r => match r with | .ok (some w) => some w | _ => none) ∧
      out.log = ((splitLines listing).mapIdx fun k raw => (k + 1, assembleLine policy (k + 1) raw)).filterMap
        (fun e => match e with | (n, .ok (some w)) => some (lineKey n, wordHex w) | _ => none) ∧
      out.words.length = (splitLines listing).countP
        (fun raw => match decodeUtf8 raw with | some line => !(tokens line).isEmpty | none => false)

/-- A line of bytes that are all whitespace (space, tab, CR, vertical tab, form feed) or that is empty assembles to
no word and no error (R64). Which characters are whitespace is D13's (R65), and their codes are general knowledge in
the spec (G2) and PRESUMED in the model (notes/assumptions/14). -/
def Obligations.BlankLinesAreSkipped : Prop :=
  ∀ (policy : OversizePolicy) (n : Nat) (raw : List Byte),
    (∀ x ∈ raw, x = 0x20 ∨ x = 0x09 ∨ x = 0x0D ∨ x = 0x0B ∨ x = 0x0C) → assembleLine policy n raw = .ok none

/-- A line that is valid UTF-8 and has a number of tokens other than none and three is a ParseError with the line's
number, its raw text and the count found, under either oversize policy; of three tokens that parse, token 0 is the
opcode, token 1 the register and token 2 the operand (R66). That more than three tokens is an error is D12's; the
line number and raw text are R104's; that the reason carries the count found is the model's choice (DESIGN CHOICE,
notes/assumptions/20). -/
def Obligations.LineWithoutThreeTokensIsAParseError : Prop :=
  (∀ (policy : OversizePolicy) (n : Nat) (raw : List Byte) (line : List CodePoint), decodeUtf8 raw = some line →
    tokens line ≠ [] → (tokens line).length ≠ 3 →
    assembleLine policy n raw = .error (.parseError n raw (.tokenCount (tokens line).length))) ∧
  (∀ (t0 t1 t2 : List CodePoint) (v0 v1 v2 : Nat),
    parseToken 0 t0 = .ok v0 → parseToken 1 t1 = .ok v1 → parseToken 2 t2 = .ok v2 →
    parseTokens [t0, t1, t2] = .ok { opcode := v0, register := v1, operand := v2 })

/-- A token of two or fewer characters is an error for its missing digits; one with a character after the second
that is no hexadecimal digit is an error; any two characters followed by one or more hexadecimal digits have the
value of the digits read most significant first, whatever the two characters are. That the two are not examined is
the spec's decision D11, which errs toward proving (notes/assumptions/19); the two reasons' names are the model's
choice (notes/assumptions/20). -/
def Obligations.TokenIsAPrefixAndHexDigits : Prop :=
  ∀ idx : Nat,
    (∀ token : List CodePoint, token.length ≤ 2 → parseToken idx token = .error (.noDigits idx)) ∧
    (∀ (p q : CodePoint) (digits : List CodePoint), (∃ d ∈ digits, hexDigit d = none) →
      parseToken idx (p :: q :: digits) = .error (.notHex idx)) ∧
    (∀ (p q : CodePoint) (digits : List CodePoint) (values : List Nat), digits ≠ [] →
      digits.map hexDigit = values.map some →
      parseToken idx (p :: q :: digits) = .ok (Nat.ofDigits 16 values.reverse))

/-- For a line of three tokens with values v0, v1 and v2: with the policy reject, values in range make the word v0 +
32*v1 + 2048*v2, and otherwise the line is a FieldRangeError with its number and raw text for its lowest-numbered
field out of range, with its value; with the policy mask the word is (v0 mod 2^5) + 32*(v1 mod 2^6) + 2048*(v2 mod
2^21) (R69). -/
def Obligations.OversizeValuesAreRejectedOrMasked : Prop :=
  ∀ (n : Nat) (raw : List Byte) (line t0 t1 t2 : List CodePoint) (v0 v1 v2 : Nat),
    decodeUtf8 raw = some line → tokens line = [t0, t1, t2] →
    parseToken 0 t0 = .ok v0 → parseToken 1 t1 = .ok v1 → parseToken 2 t2 = .ok v2 →
    (v0 < 2 ^ 5 → v1 < 2 ^ 6 → v2 < 2 ^ 21 →
      ∃ w, assembleLine .reject n raw = .ok (some w) ∧ w.toNat = v0 + 32 * v1 + 2048 * v2) ∧
    (2 ^ 5 ≤ v0 → assembleLine .reject n raw = .error (.fieldRange n raw .opcode v0)) ∧
    (v0 < 2 ^ 5 → 2 ^ 6 ≤ v1 → assembleLine .reject n raw = .error (.fieldRange n raw .register v1)) ∧
    (v0 < 2 ^ 5 → v1 < 2 ^ 6 → 2 ^ 21 ≤ v2 →
      assembleLine .reject n raw = .error (.fieldRange n raw .operand v2)) ∧
    (∃ w, assembleLine .mask n raw = .ok (some w) ∧
      w.toNat = v0 % 2 ^ 5 + 32 * (v1 % 2 ^ 6) + 2048 * (v2 % 2 ^ 21))

/-- An invalid UTF-8 line is a ParseError; of a line of three tokens the lowest-numbered token that does not parse
gives the reason, with the line's number and raw text; and the opcode value is not checked against the recognized
ones: under either policy any v0 < 32 with v1 and v2 in range gives a word. The reasons' names and the form of the
raw text are the model's choice (notes/assumptions/20), and so is that the UTF-8 check comes first within a line
(notes/assumptions/23). -/
def Obligations.LineErrorsNameTheLineAndItsText : Prop :=
  ∀ (policy : OversizePolicy) (n : Nat) (raw : List Byte),
    (decodeUtf8 raw = none → assembleLine policy n raw = .error (.parseError n raw .invalidUtf8)) ∧
    (∀ line t0 t1 t2, decodeUtf8 raw = some line → tokens line = [t0, t1, t2] →
      (∀ r, parseToken 0 t0 = .error r → assembleLine policy n raw = .error (.parseError n raw r)) ∧
      (∀ v0 r, parseToken 0 t0 = .ok v0 → parseToken 1 t1 = .error r →
        assembleLine policy n raw = .error (.parseError n raw r)) ∧
      (∀ v0 v1 r, parseToken 0 t0 = .ok v0 → parseToken 1 t1 = .ok v1 → parseToken 2 t2 = .error r →
        assembleLine policy n raw = .error (.parseError n raw r)) ∧
      (∀ v0 v1 v2, parseToken 0 t0 = .ok v0 → parseToken 1 t1 = .ok v1 → parseToken 2 t2 = .ok v2 →
        v0 < 32 → v1 < 64 → v2 < 2 ^ 21 →
        ∃ w, assembleLine policy n raw = .ok (some w) ∧ w.toNat = v0 + 32 * v1 + 2048 * v2))

/-- The rendering of every word is 10 characters long, begins with 0x, and read as a token it has the word's value
(the letter case and padding are the spec's decision D14). -/
def Obligations.RenderedWordsReadBack : Prop :=
  ∀ (w : InsnWord) (idx : Nat),
    (wordHex w).length = 10 ∧ (wordHex w).take 2 = ['0', 'x'] ∧
    parseToken idx ((wordHex w).map Char.toNat) = .ok w.toNat

/-- The keys register_<r> of different registers differ, the keys 0x<addr> of different addresses differ, and no
register key is the key memory; so the result output loses no entry. -/
def Obligations.ResultKeysAreDistinct : Prop :=
  (∀ r q : RegIdx, registerKey r = registerKey q → r = q) ∧
  (∀ a b : Nat, addressKey a = addressKey b → a = b) ∧
  (∀ r : RegIdx, registerKey r ≠ memoryKey)

/-! ## The invocation -/

/-- An invocation that requests neither assemble nor execute ends with UsageError, writes no file, no log and no
result (R113). -/
def Obligations.RequestingNeitherIsAUsageError : Prop :=
  ∀ (cfg : Config) (files : Files),
    invoke cfg files { assemble := none, execute := none } =
      { files := files, log := none, result := none, error := some .usageError }

/-- Where both are requested: a fatal assembly error ends the invocation with that error, the files unchanged, no
log and no result; a successful assembly writes its binary and log, and then the execution runs on the files as they
are after it, so on the assembled image where it reads that path, and its result or error ends the invocation (R130,
D20). That the binary and the log always stand after a successful assembly, and stay where the execution then fails,
is the model's choice (DESIGN CHOICE, notes/assumptions/16). -/
def Obligations.AssemblyRunsBeforeExecution : Prop :=
  ∀ (cfg : Config) (files : Files) (asm : AssembleRequest) (ex : ExecuteRequest),
    (∀ e, assembleRequest cfg files asm = .error e →
      invoke cfg files { assemble := some asm, execute := some ex } =
        { files := files, log := none, result := none, error := some e }) ∧
    (∀ bytes log, assembleRequest cfg files asm = .ok (bytes, log) →
      ∃ out, invoke cfg files { assemble := some asm, execute := some ex } = out ∧
        out.files = (asm.binary, bytes) :: files ∧ out.log = some log ∧
        (ex.binary = asm.binary → ∃ o, execute cfg ex (some bytes) = some o ∧
          (∀ r, o = .result r → out.result = some r.output ∧ out.error = none) ∧
          (∀ e, o = .fatal e → out.result = none ∧ out.error = some e)) ∧
        (ex.binary ≠ asm.binary → ∃ o, execute cfg ex (files.get ex.binary) = some o ∧
          (∀ r, o = .result r → out.result = some r.output ∧ out.error = none) ∧
          (∀ e, o = .fatal e → out.result = none ∧ out.error = some e)))

/-- An assembly request fails with FileNotFound and the listing's path where the listing is missing (R105), with the
assembly's error where that fails, and else makes the binary image of exactly the assembled words (R61) and their
log (R62). An invocation that requests assemble alone ends with that error, the files unchanged and nothing written
(R72), or writes the binary, which then reads back, and the log, every other path unchanged, with no result and no
error. One that requests execute alone changes no file, writes no log, and ends with the result or the error of the
execution on the file it names, FileNotFound where a good dump range is asked of a missing file (R94, R105). That a
write always succeeds is the model's choice (DESIGN CHOICE, notes/assumptions/16). -/
def Obligations.EachOperationRunsAlone : Prop :=
  ∀ (cfg : Config) (files : Files) (asm : AssembleRequest) (ex : ExecuteRequest),
    (files.get asm.listing = none → assembleRequest cfg files asm = .error (.fileNotFound asm.listing)) ∧
    (∀ listing, files.get asm.listing = some listing →
      (∀ e, assemble cfg.oversizePolicy listing = .error e → assembleRequest cfg files asm = .error e) ∧
      (∀ out, assemble cfg.oversizePolicy listing = .ok out →
        assembleRequest cfg files asm = .ok (imageOfWords out.words, out.log))) ∧
    (∀ e, assembleRequest cfg files asm = .error e →
      invoke cfg files { assemble := some asm, execute := none } =
        { files := files, log := none, result := none, error := some e }) ∧
    (∀ bytes log, assembleRequest cfg files asm = .ok (bytes, log) →
      ∃ after, invoke cfg files { assemble := some asm, execute := none } =
          { files := after, log := some log, result := none, error := none } ∧
        after.get asm.binary = some bytes ∧ ∀ path, path ≠ asm.binary → after.get path = files.get path) ∧
    (∃ o, execute cfg ex (files.get ex.binary) = some o ∧
      (∀ r, o = .result r → invoke cfg files { assemble := none, execute := some ex } =
        { files := files, log := none, result := some r.output, error := none }) ∧
      (∀ e, o = .fatal e → invoke cfg files { assemble := none, execute := some ex } =
        { files := files, log := none, result := none, error := some e })) ∧
    (WellFormed.dumpRange cfg.memSize ex.dumpStart ex.dumpEnd → files.get ex.binary = none →
      invoke cfg files { assemble := none, execute := some ex } =
        { files := files, log := none, result := none, error := some (.fileNotFound ex.binary) })
end

