-- ==== Sys2Proof/Laws/Codec.lean ====
section
/-! SUPPORT. What the codec's definitions are, in the terms proofs work in. -/

namespace Sys2Proof

/-- The fields of the instruction a triple selects are the triple. -/
theorem fields_ofFields (f : Fields) : (Instr.ofFields f).fields = f := by
  obtain ⟨⟨⟨n, hn⟩⟩, b, c⟩ := f
  have hn : n < 32 := hn
  interval_cases n <;> rfl

@[simp] theorem opcode_decode (w : InsnWord) : (decode w).opcode = (decodeFields w).a :=
  congrArg Fields.a (fields_ofFields (decodeFields w))

@[simp] theorem register_decode (w : InsnWord) : (decode w).register = (decodeFields w).b :=
  congrArg Fields.b (fields_ofFields (decodeFields w))

@[simp] theorem operand_decode (w : InsnWord) : (decode w).operand = (decodeFields w).c :=
  congrArg Fields.c (fields_ofFields (decodeFields w))

/-- A triple has no oversize field exactly where it is well-formed (R69). -/
theorem firstOversize_eq_none_iff (f : RawFields) : f.firstOversize = none ↔ f.wellFormed := by
  unfold RawFields.firstOversize RawFields.wellFormed
  split
  · simp; omega
  · split
    · simp; omega
    · split
      · simp; omega
      · simp; omega

end Sys2Proof
end

