-- ==== Sys2Proof/Laws/State.lean ====
section
/-! SUPPORT. One lemma per field per update of the state, each true by unfolding. -/

namespace Sys2Proof.Machine.State

/-! ## writeReg -/

@[simp] theorem writeReg_regs (s : State) (r : RegIdx) (v : Word) : (s.writeReg r v).regs = s.regs.set r.val v := rfl
@[simp] theorem writeReg_mem (s : State) (r : RegIdx) (v : Word) : (s.writeReg r v).mem = s.mem := rfl
@[simp] theorem writeReg_ip (s : State) (r : RegIdx) (v : Word) : (s.writeReg r v).ip = s.ip := rfl
@[simp] theorem writeReg_touched (s : State) (r : RegIdx) (v : Word) : (s.writeReg r v).touched = s.touched := rfl
@[simp] theorem writeReg_status (s : State) (r : RegIdx) (v : Word) : (s.writeReg r v).status = s.status := rfl
@[simp] theorem writeReg_imem (s : State) (r : RegIdx) (v : Word) : (s.writeReg r v).imem = s.imem := rfl
@[simp] theorem writeReg_params (s : State) (r : RegIdx) (v : Word) : (s.writeReg r v).params = s.params := rfl

/-! ## writeCell -/

@[simp] theorem writeCell_regs (s : State) (a : Nat) (v : Word) : (s.writeCell a v).regs = s.regs := rfl
@[simp] theorem writeCell_mem (s : State) (a : Nat) (v : Word) : (s.writeCell a v).mem = Memory.write s.mem a v := rfl
@[simp] theorem writeCell_ip (s : State) (a : Nat) (v : Word) : (s.writeCell a v).ip = s.ip := rfl
@[simp] theorem writeCell_touched (s : State) (a : Nat) (v : Word) : (s.writeCell a v).touched = s.touched := rfl
@[simp] theorem writeCell_status (s : State) (a : Nat) (v : Word) : (s.writeCell a v).status = s.status := rfl
@[simp] theorem writeCell_imem (s : State) (a : Nat) (v : Word) : (s.writeCell a v).imem = s.imem := rfl
@[simp] theorem writeCell_params (s : State) (a : Nat) (v : Word) : (s.writeCell a v).params = s.params := rfl

/-! ## touch -/

@[simp] theorem touch_regs (s : State) (r : RegIdx) : (s.touch r).regs = s.regs := rfl
@[simp] theorem touch_mem (s : State) (r : RegIdx) : (s.touch r).mem = s.mem := rfl
@[simp] theorem touch_ip (s : State) (r : RegIdx) : (s.touch r).ip = s.ip := rfl
@[simp] theorem touch_touched (s : State) (r : RegIdx) : (s.touch r).touched = s.touched ||| BitVec.twoPow 64 r.val := rfl
@[simp] theorem touch_status (s : State) (r : RegIdx) : (s.touch r).status = s.status := rfl
@[simp] theorem touch_imem (s : State) (r : RegIdx) : (s.touch r).imem = s.imem := rfl
@[simp] theorem touch_params (s : State) (r : RegIdx) : (s.touch r).params = s.params := rfl

/-! ## advance -/

@[simp] theorem advance_regs (s : State) : s.advance.regs = s.regs := rfl
@[simp] theorem advance_mem (s : State) : s.advance.mem = s.mem := rfl
@[simp] theorem advance_ip (s : State) : s.advance.ip = s.ip + 1 := rfl
@[simp] theorem advance_touched (s : State) : s.advance.touched = s.touched := rfl
@[simp] theorem advance_status (s : State) : s.advance.status = s.status := rfl
@[simp] theorem advance_imem (s : State) : s.advance.imem = s.imem := rfl
@[simp] theorem advance_params (s : State) : s.advance.params = s.params := rfl

/-! ## retire -/

@[simp] theorem retire_regs (s : State) (r : RegIdx) : (s.retire r).regs = s.regs := rfl
@[simp] theorem retire_mem (s : State) (r : RegIdx) : (s.retire r).mem = s.mem := rfl
@[simp] theorem retire_ip (s : State) (r : RegIdx) : (s.retire r).ip = s.ip + 1 := rfl
@[simp] theorem retire_touched (s : State) (r : RegIdx) : (s.retire r).touched = s.touched ||| BitVec.twoPow 64 r.val := rfl
@[simp] theorem retire_status (s : State) (r : RegIdx) : (s.retire r).status = s.status := rfl
@[simp] theorem retire_imem (s : State) (r : RegIdx) : (s.retire r).imem = s.imem := rfl
@[simp] theorem retire_params (s : State) (r : RegIdx) : (s.retire r).params = s.params := rfl

/-! ## finish -/

@[simp] theorem finish_regs (s : State) : s.finish.regs = s.regs := rfl
@[simp] theorem finish_mem (s : State) : s.finish.mem = s.mem := rfl
@[simp] theorem finish_ip (s : State) : s.finish.ip = s.ip := rfl
@[simp] theorem finish_touched (s : State) : s.finish.touched = s.touched := rfl
@[simp] theorem finish_status (s : State) : s.finish.status = .done := rfl
@[simp] theorem finish_imem (s : State) : s.finish.imem = s.imem := rfl
@[simp] theorem finish_params (s : State) : s.finish.params = s.params := rfl

/-! ## fail -/

@[simp] theorem fail_regs (s : State) (e : Error) : (s.fail e).regs = s.regs := rfl
@[simp] theorem fail_mem (s : State) (e : Error) : (s.fail e).mem = s.mem := rfl
@[simp] theorem fail_ip (s : State) (e : Error) : (s.fail e).ip = s.ip := rfl
@[simp] theorem fail_touched (s : State) (e : Error) : (s.fail e).touched = s.touched := rfl
@[simp] theorem fail_status (s : State) (e : Error) : (s.fail e).status = .fatal e := rfl
@[simp] theorem fail_imem (s : State) (e : Error) : (s.fail e).imem = s.imem := rfl
@[simp] theorem fail_params (s : State) (e : Error) : (s.fail e).params = s.params := rfl

/-! ## reset -/

@[simp] theorem reset_regs : reset.regs = Vector.replicate 64 0 := rfl
@[simp] theorem reset_mem : reset.mem = [] := rfl
@[simp] theorem reset_ip : reset.ip = 0 := rfl
@[simp] theorem reset_touched : reset.touched = 0 := rfl
@[simp] theorem reset_status : reset.status = .running := rfl
@[simp] theorem reset_imem : reset.imem = [] := rfl

end Sys2Proof.Machine.State
end

