-- ==== Sys2Proof/Laws/Memory.lean ====
section
/-! SUPPORT. The data memory: a read after a write, and that every operation keeps the canonical form. -/

namespace Sys2Proof.Machine.Memory

theorem erase_cons (e : Nat × Word) (rest : Memory) (a : Nat) :
    erase (e :: rest) a = if e.1 = a then erase rest a else e :: erase rest a := by
  by_cases h : e.1 = a <;> simp [erase, h]

theorem read_cons (e : Nat × Word) (rest : Memory) (b : Nat) :
    read (e :: rest) b = if e.1 = b then e.2 else read rest b := rfl

theorem read_erase (m : Memory) (a b : Nat) : read (erase m a) b = if b = a then 0 else read m b := by
  induction m with
  | nil => simp [erase, read]
  | cons e rest ih =>
    rw [erase_cons, read_cons]
    by_cases hk : e.1 = a
    · rw [if_pos hk, ih, hk]
      by_cases hb : b = a
      · simp [hb]
      · simp [hb, Ne.symm hb]
    · rw [if_neg hk, read_cons, ih]
      by_cases hb : e.1 = b
      · simp [hb, hb ▸ hk]
      · simp [hb]

theorem read_insert (m : Memory) (a b : Nat) (v : Word) (absent : ∀ e ∈ m, e.1 ≠ a) :
    read (insert m a v) b = if b = a then v else read m b := by
  induction m with
  | nil =>
    rw [insert, read_cons]
    by_cases h : a = b
    · simp [h]
    · simp [h, Ne.symm h]
  | cons e rest ih =>
    have hne : e.1 ≠ a := absent e (by simp)
    have ih := ih fun e' he' => absent e' (by simp [he'])
    rw [insert]
    split
    · rw [read_cons]
      by_cases h : a = b
      · simp [h]
      · simp [h, Ne.symm h]
    · rw [read_cons, ih, read_cons]
      by_cases h : e.1 = b
      · simp [h, h ▸ hne]
      · simp [h]

theorem erase_absent (m : Memory) (a : Nat) : ∀ e ∈ erase m a, e.1 ≠ a := by
  simp [erase]

/-- A read after a write: the written cell reads the value written, every other cell as before. -/
@[simp] theorem read_write (m : Memory) (a b : Nat) (v : Word) :
    read (write m a v) b = if b = a then v else read m b := by
  unfold write
  split
  · simp_all [read_erase]
  · rw [read_insert _ _ _ _ (erase_absent m a), read_erase]
    split <;> rfl

@[simp] theorem mem_insert (m : Memory) (a : Nat) (v : Word) (e : Nat × Word) :
    e ∈ insert m a v ↔ e = (a, v) ∨ e ∈ m := by
  induction m with
  | nil => simp [insert]
  | cons x rest ih =>
    simp only [insert]
    split
    · simp
    · simp [ih, or_left_comm]

/-- What a write lists: the written cell or a cell listed before. -/
theorem mem_write {m : Memory} {a : Nat} {v : Word} {e : Nat × Word} (h : e ∈ write m a v) :
    e = (a, v) ∧ v ≠ 0 ∨ e ∈ m := by
  unfold write at h
  split at h
  · exact .inr (List.mem_filter.mp h).1
  · rcases (mem_insert _ _ _ _).mp h with h | h
    · exact .inl ⟨h, ‹_›⟩
    · exact .inr (List.mem_filter.mp h).1

theorem pairwise_insert {m : Memory} {a : Nat} {v : Word} (hm : m.Pairwise (fun e f => e.1 < f.1))
    (absent : ∀ e ∈ m, e.1 ≠ a) : (insert m a v).Pairwise (fun e f => e.1 < f.1) := by
  induction m with
  | nil => simp [insert]
  | cons x rest ih =>
    obtain ⟨hx, hrest⟩ := List.pairwise_cons.mp hm
    have hne : x.1 ≠ a := absent x (by simp)
    simp only [insert]
    split
    · rename_i hlt
      refine List.pairwise_cons.mpr ⟨fun e he => ?_, hm⟩
      rcases List.mem_cons.mp he with rfl | he
      · exact hlt
      · exact hlt.trans (hx e he)
    · rename_i hlt
      refine List.pairwise_cons.mpr ⟨fun e he => ?_, ih hrest fun e he => absent e (by simp [he])⟩
      rcases (mem_insert _ _ _ _).mp he with rfl | he
      · exact lt_of_le_of_ne (Nat.le_of_not_lt hlt) hne
      · exact hx e he

theorem wf_nil : wf [] := by simp [wf]

theorem wf_erase {m : Memory} (a : Nat) (h : wf m) : wf (erase m a) :=
  ⟨h.1.filter _, fun e he => h.2 e (List.mem_filter.mp he).1⟩

/-- Inserting keeps the form where the value is not 0 and the cell is not listed: what `write` does. -/
theorem wf_insert {m : Memory} {a : Nat} {v : Word} (h : wf m) (absent : ∀ e ∈ m, e.1 ≠ a) (hv : v ≠ 0) :
    wf (insert m a v) := by
  refine ⟨pairwise_insert h.1 absent, fun e he => ?_⟩
  rcases (mem_insert _ _ _ _).mp he with rfl | he
  · exact hv
  · exact h.2 e he

/-- Every write keeps the canonical form. -/
theorem wf_write {m : Memory} (a : Nat) (v : Word) (h : wf m) : wf (write m a v) := by
  unfold write
  split
  · exact wf_erase a h
  · exact wf_insert (wf_erase a h) (erase_absent m a) ‹_›

/-- The memory at reset is canonical. -/
theorem wf_reset : wf State.reset.mem := wf_nil

/-- A listed cell of a canonical memory reads its listed value. -/
theorem read_of_mem {m : Memory} {e : Nat × Word} (h : wf m) (he : e ∈ m) : read m e.1 = e.2 := by
  induction m with
  | nil => simp at he
  | cons x rest ih =>
    obtain ⟨hx, hrest⟩ := List.pairwise_cons.mp h.1
    rcases List.mem_cons.mp he with rfl | he
    · simp [read]
    · have : x.1 ≠ e.1 := (hx e he).ne
      simp [read, this, ih ⟨hrest, fun e he => h.2 e (by simp [he])⟩ he]

end Sys2Proof.Machine.Memory
end

