-- ==== Sys2Proof/Laws/Ops.lean ====
section
/-! SUPPORT. What each shared operation does, said once: the register-file ports, the record, and the two guarded
operations. -/

namespace Sys2Proof.Machine

namespace State

@[simp] theorem readReg_writeReg (s : State) (b r : RegIdx) (v : Word) :
    (s.writeReg b v).readReg r = if r = b then v else s.readReg r := by
  simp only [readReg, writeReg, Vector.getElem_set, Fin.ext_iff, eq_comm (a := r.val)]

@[simp] theorem readReg_writeCell (s : State) (a : Nat) (v : Word) (r : RegIdx) :
    (s.writeCell a v).readReg r = s.readReg r := rfl

@[simp] theorem readReg_retire (s : State) (b r : RegIdx) : (s.retire b).readReg r = s.readReg r := rfl

@[simp] theorem readReg_fail (s : State) (e : Error) (r : RegIdx) : (s.fail e).readReg r = s.readReg r := rfl

@[simp] theorem readReg_finish (s : State) (r : RegIdx) : s.finish.readReg r = s.readReg r := rfl

@[simp] theorem readReg_reset (r : RegIdx) : reset.readReg r = 0 := by
  simp [readReg, reset]

@[simp] theorem readCell_writeReg (s : State) (b : RegIdx) (v : Word) (a : Nat) :
    (s.writeReg b v).readCell a = s.readCell a := rfl

@[simp] theorem readCell_writeCell (s : State) (a k : Nat) (v : Word) :
    (s.writeCell a v).readCell k = if k = a then v else s.readCell k := by
  simp [readCell]

@[simp] theorem readCell_retire (s : State) (b : RegIdx) (a : Nat) : (s.retire b).readCell a = s.readCell a := rfl

@[simp] theorem readCell_fail (s : State) (e : Error) (a : Nat) : (s.fail e).readCell a = s.readCell a := rfl

@[simp] theorem readCell_finish (s : State) (a : Nat) : s.finish.readCell a = s.readCell a := rfl

@[simp] theorem readCell_reset (a : Nat) : reset.readCell a = 0 := rfl

@[simp] theorem isTouched_writeReg (s : State) (b : RegIdx) (v : Word) (r : RegIdx) :
    (s.writeReg b v).isTouched r = s.isTouched r := rfl

@[simp] theorem isTouched_writeCell (s : State) (a : Nat) (v : Word) (r : RegIdx) :
    (s.writeCell a v).isTouched r = s.isTouched r := rfl

/-- The record adds its own register and no other (R87). -/
@[simp] theorem isTouched_retire (s : State) (b r : RegIdx) :
    (s.retire b).isTouched r = (s.isTouched r || decide (r = b)) := by
  have hb := b.isLt
  simp only [isTouched, retire_touched, BitVec.getLsbD_or, BitVec.getLsbD_twoPow, hb, decide_true, Bool.true_and,
    Fin.ext_iff, eq_comm (a := r.val)]

@[simp] theorem isTouched_fail (s : State) (e : Error) (r : RegIdx) : (s.fail e).isTouched r = s.isTouched r := rfl

@[simp] theorem isTouched_finish (s : State) (r : RegIdx) : s.finish.isTouched r = s.isTouched r := rfl

@[simp] theorem isTouched_reset (r : RegIdx) : reset.isTouched r = false := by
  simp [isTouched]

theorem fetch_eq (s : State) : s.fetch = s.imem[s.ip]? := rfl

end State

/-- A checked access is the access, or the error with nothing else changed (R38). -/
theorem withBounds_cases (i : Instr) (s access : State) :
    cellIndex i.operand < s.params.memSize ∧ withBounds i s access = .next access ∨
    s.params.memSize ≤ cellIndex i.operand ∧
      withBounds i s access = .next (s.fail (.outOfBoundsAccess s.ip (encode i) (cellIndex i.operand))) := by
  unfold withBounds
  split
  · exact .inl ⟨‹_›, rfl⟩
  · exact .inr ⟨Nat.le_of_not_lt ‹_›, rfl⟩

/-- An unrecognized opcode retires, or with STRICT_OPCODES is the error (R101, R102). -/
theorem unrecognized_cases (i : Instr) (s : State) :
    s.params.strictOpcodes = false ∧ unrecognized i s = .next (s.retire i.register) ∨
    s.params.strictOpcodes = true ∧
      unrecognized i s = .next (s.fail (.unknownInstruction s.ip (encode i) i.opcode)) := by
  unfold unrecognized raise
  cases s.params.strictOpcodes <;> simp

end Sys2Proof.Machine
end

