-- ==== Sys2Proof/Laws/PerInstr.lean ====
section
/-! SUPPORT. Statements made per instruction: one lemma per constructor. -/

namespace Sys2Proof.Laws.OpcodeMap

/-- The opcode map read both ways, and the instruction's row of the opcode table (R57). -/
def Statement (i : Instr) : Prop :=
  Instr.ofFields i.fields = i ∧
  ∃ row ∈ opcodeTable, row.mnemonic = i.mnemonic ∧ row.pattern = i.opcode.setWidth 32 ∧ row.mask = 0x1F ∧
    row.make i.register i.operand = i

/-- The statement from the row's place in the table. -/
theorem of_row {i : Instr} (k : Fin opcodeTable.length) (back : Instr.ofFields i.fields = i)
    (name : opcodeTable[k].mnemonic = i.mnemonic) (bits : opcodeTable[k].pattern = i.opcode.setWidth 32)
    (mask : opcodeTable[k].mask = 0x1F) (make : opcodeTable[k].make i.register i.operand = i) : Statement i :=
  ⟨back, opcodeTable[k], List.getElem_mem _, name, bits, mask, make⟩

theorem loadConst (b : RegIdx) (c : Operand) : Statement (.loadConst b c) := of_row ⟨0, by decide⟩ rfl rfl rfl rfl rfl
theorem readMem (b : RegIdx) (c : Operand) : Statement (.readMem b c) := of_row ⟨1, by decide⟩ rfl rfl rfl rfl rfl
theorem writeMem (b : RegIdx) (c : Operand) : Statement (.writeMem b c) := of_row ⟨2, by decide⟩ rfl rfl rfl rfl rfl
theorem negMem (b : RegIdx) (c : Operand) : Statement (.negMem b c) := of_row ⟨3, by decide⟩ rfl rfl rfl rfl rfl
theorem unk0 (b : RegIdx) (c : Operand) : Statement (.unk0 b c) := of_row ⟨4, by decide⟩ rfl rfl rfl rfl rfl
theorem unk1 (b : RegIdx) (c : Operand) : Statement (.unk1 b c) := of_row ⟨5, by decide⟩ rfl rfl rfl rfl rfl
theorem unk2 (b : RegIdx) (c : Operand) : Statement (.unk2 b c) := of_row ⟨6, by decide⟩ rfl rfl rfl rfl rfl
theorem unk3 (b : RegIdx) (c : Operand) : Statement (.unk3 b c) := of_row ⟨7, by decide⟩ rfl rfl rfl rfl rfl
theorem unk4 (b : RegIdx) (c : Operand) : Statement (.unk4 b c) := of_row ⟨8, by decide⟩ rfl rfl rfl rfl rfl
theorem unk5 (b : RegIdx) (c : Operand) : Statement (.unk5 b c) := of_row ⟨9, by decide⟩ rfl rfl rfl rfl rfl
theorem unk7 (b : RegIdx) (c : Operand) : Statement (.unk7 b c) := of_row ⟨10, by decide⟩ rfl rfl rfl rfl rfl
theorem unk9 (b : RegIdx) (c : Operand) : Statement (.unk9 b c) := of_row ⟨11, by decide⟩ rfl rfl rfl rfl rfl
theorem unk11 (b : RegIdx) (c : Operand) : Statement (.unk11 b c) := of_row ⟨12, by decide⟩ rfl rfl rfl rfl rfl
theorem unk12 (b : RegIdx) (c : Operand) : Statement (.unk12 b c) := of_row ⟨13, by decide⟩ rfl rfl rfl rfl rfl
theorem unk13 (b : RegIdx) (c : Operand) : Statement (.unk13 b c) := of_row ⟨14, by decide⟩ rfl rfl rfl rfl rfl
theorem unk14 (b : RegIdx) (c : Operand) : Statement (.unk14 b c) := of_row ⟨15, by decide⟩ rfl rfl rfl rfl rfl
theorem unk15 (b : RegIdx) (c : Operand) : Statement (.unk15 b c) := of_row ⟨16, by decide⟩ rfl rfl rfl rfl rfl
theorem unk16 (b : RegIdx) (c : Operand) : Statement (.unk16 b c) := of_row ⟨17, by decide⟩ rfl rfl rfl rfl rfl
theorem unk17 (b : RegIdx) (c : Operand) : Statement (.unk17 b c) := of_row ⟨18, by decide⟩ rfl rfl rfl rfl rfl
theorem unk18 (b : RegIdx) (c : Operand) : Statement (.unk18 b c) := of_row ⟨19, by decide⟩ rfl rfl rfl rfl rfl
theorem unk19 (b : RegIdx) (c : Operand) : Statement (.unk19 b c) := of_row ⟨20, by decide⟩ rfl rfl rfl rfl rfl
theorem unk20 (b : RegIdx) (c : Operand) : Statement (.unk20 b c) := of_row ⟨21, by decide⟩ rfl rfl rfl rfl rfl
theorem unk21 (b : RegIdx) (c : Operand) : Statement (.unk21 b c) := of_row ⟨22, by decide⟩ rfl rfl rfl rfl rfl
theorem unk22 (b : RegIdx) (c : Operand) : Statement (.unk22 b c) := of_row ⟨23, by decide⟩ rfl rfl rfl rfl rfl
theorem unk23 (b : RegIdx) (c : Operand) : Statement (.unk23 b c) := of_row ⟨24, by decide⟩ rfl rfl rfl rfl rfl
theorem unk24 (b : RegIdx) (c : Operand) : Statement (.unk24 b c) := of_row ⟨25, by decide⟩ rfl rfl rfl rfl rfl
theorem unk26 (b : RegIdx) (c : Operand) : Statement (.unk26 b c) := of_row ⟨26, by decide⟩ rfl rfl rfl rfl rfl
theorem unk27 (b : RegIdx) (c : Operand) : Statement (.unk27 b c) := of_row ⟨27, by decide⟩ rfl rfl rfl rfl rfl
theorem unk28 (b : RegIdx) (c : Operand) : Statement (.unk28 b c) := of_row ⟨28, by decide⟩ rfl rfl rfl rfl rfl
theorem unk29 (b : RegIdx) (c : Operand) : Statement (.unk29 b c) := of_row ⟨29, by decide⟩ rfl rfl rfl rfl rfl
theorem unk30 (b : RegIdx) (c : Operand) : Statement (.unk30 b c) := of_row ⟨30, by decide⟩ rfl rfl rfl rfl rfl
theorem unk31 (b : RegIdx) (c : Operand) : Statement (.unk31 b c) := of_row ⟨31, by decide⟩ rfl rfl rfl rfl rfl

end Sys2Proof.Laws.OpcodeMap
end

