-- ==== Sys2Proof/Laws/Step.lean ====
section
/-! SUPPORT. What an instruction and a step can do, said once. -/

namespace Sys2Proof.Machine

open Sys2Proof.Safety

/-- Everything an instruction can do: it raises one of two errors, or it has its effect and retires. -/
theorem exec_cases (i : Instr) (s : State) :
    (AccessesMemory i.opcode ∧ s.params.memSize ≤ cellIndex i.operand ∧
      exec i s = .next (s.fail (.outOfBoundsAccess s.ip (encode i) (cellIndex i.operand)))) ∨
    (¬ Recognized i.opcode ∧ s.params.strictOpcodes = true ∧
      exec i s = .next (s.fail (.unknownInstruction s.ip (encode i) i.opcode))) ∨
    (i.opcode = 6 ∧ exec i s = .next ((s.writeReg i.register (immediate i.operand)).retire i.register)) ∨
    (i.opcode = 8 ∧ cellIndex i.operand < s.params.memSize ∧
      exec i s = .next ((s.writeReg i.register (s.readCell (cellIndex i.operand))).retire i.register)) ∨
    (i.opcode = 25 ∧ cellIndex i.operand < s.params.memSize ∧
      exec i s = .next ((s.writeCell (cellIndex i.operand) (s.readReg i.register)).retire i.register)) ∨
    (i.opcode = 10 ∧ cellIndex i.operand < s.params.memSize ∧
      exec i s = .next ((s.writeReg i.register (negate (s.readCell (cellIndex i.operand)))).retire i.register)) ∨
    (¬ Recognized i.opcode ∧ s.params.strictOpcodes = false ∧ exec i s = .next (s.retire i.register)) := by
  cases i
  case loadConst b c => exact .inr (.inr (.inl ⟨rfl, rfl⟩))
  case readMem b c =>
    rcases withBounds_cases (.readMem b c) s _ with ⟨h, e⟩ | ⟨h, e⟩
    · exact .inr (.inr (.inr (.inl ⟨rfl, h, e⟩)))
    · exact .inl ⟨.inl rfl, h, e⟩
  case writeMem b c =>
    rcases withBounds_cases (.writeMem b c) s _ with ⟨h, e⟩ | ⟨h, e⟩
    · exact .inr (.inr (.inr (.inr (.inl ⟨rfl, h, e⟩))))
    · exact .inl ⟨.inr (.inl rfl), h, e⟩
  case negMem b c =>
    rcases withBounds_cases (.negMem b c) s _ with ⟨h, e⟩ | ⟨h, e⟩
    · exact .inr (.inr (.inr (.inr (.inr (.inl ⟨rfl, h, e⟩)))))
    · exact .inl ⟨.inr (.inr rfl), h, e⟩
  all_goals
    rename_i b c
    rcases unrecognized_cases _ s with ⟨h, e⟩ | ⟨h, e⟩
    · exact .inr (.inr (.inr (.inr (.inr (.inr ⟨by simp [Instr.opcode], h, e⟩)))))
    · exact .inr (.inl ⟨by simp [Instr.opcode], h, e⟩)

/-- Everything a step that answers a next state can be (R77). -/
theorem step_cases {s t : State} (h : step s = .next t) :
    s.status = .running ∧
    ((s.ip = s.imem.length ∧ t = s.finish) ∨
     (∃ w, s.ip ≠ s.imem.length ∧ s.fetch = some w ∧ exec (decode w) s = .next t)) := by
  unfold step at h
  split at h
  · cases h
  · cases h
  · rename_i hs
    refine ⟨hs, ?_⟩
    split at h
    · exact .inl ⟨‹_›, by cases h; rfl⟩
    · split at h
      · exact .inr ⟨_, ‹_›, ‹_›, h⟩
      · cases h

end Sys2Proof.Machine
end

