-- ==== Sys2Proof/Tests/Slice0.lean ====
section
/-! SUPPORT. Tests with expected values from the spec's own tables and rules, and a witness for each statement that has
hypotheses. -/

namespace Sys2Proof.Tests

open Sys2Proof Sys2Proof.Machine Sys2Proof.Safety

/-! ## Decoding: each opcode's word written from R49 and R57, `c ++ b ++ a` bit by bit

The first four are LOAD_CONST r0, 5, READ_MEM r63, 1023, WRITE_MEM r0, 10 and NEG_MEM r2, 3 (95_test_vectors.md
section 2.1). UNK<a> is tried with b = 0b100001 and c = 1, so that a bit of one field cannot pass for another's. -/

theorem test_decode_loadConst : decode 0b000000000000000000101_000000_00110 = .loadConst 0 5 := by decide
theorem test_decode_readMem : decode 0b000000000001111111111_111111_01000 = .readMem 63 1023 := by decide
theorem test_decode_writeMem : decode 0b000000000000000001010_000000_11001 = .writeMem 0 10 := by decide
theorem test_decode_negMem : decode 0b000000000000000000011_000010_01010 = .negMem 2 3 := by decide
theorem test_decode_unk0 : decode 0b000000000000000000001_100001_00000 = .unk0 33 1 := by decide
theorem test_decode_unk1 : decode 0b000000000000000000001_100001_00001 = .unk1 33 1 := by decide
theorem test_decode_unk2 : decode 0b000000000000000000001_100001_00010 = .unk2 33 1 := by decide
theorem test_decode_unk3 : decode 0b000000000000000000001_100001_00011 = .unk3 33 1 := by decide
theorem test_decode_unk4 : decode 0b000000000000000000001_100001_00100 = .unk4 33 1 := by decide
theorem test_decode_unk5 : decode 0b000000000000000000001_100001_00101 = .unk5 33 1 := by decide
theorem test_decode_unk7 : decode 0b000000000000000000001_100001_00111 = .unk7 33 1 := by decide
theorem test_decode_unk9 : decode 0b000000000000000000001_100001_01001 = .unk9 33 1 := by decide
theorem test_decode_unk11 : decode 0b000000000000000000001_100001_01011 = .unk11 33 1 := by decide
theorem test_decode_unk12 : decode 0b000000000000000000001_100001_01100 = .unk12 33 1 := by decide
theorem test_decode_unk13 : decode 0b000000000000000000001_100001_01101 = .unk13 33 1 := by decide
theorem test_decode_unk14 : decode 0b000000000000000000001_100001_01110 = .unk14 33 1 := by decide
theorem test_decode_unk15 : decode 0b000000000000000000001_100001_01111 = .unk15 33 1 := by decide
theorem test_decode_unk16 : decode 0b000000000000000000001_100001_10000 = .unk16 33 1 := by decide
theorem test_decode_unk17 : decode 0b000000000000000000001_100001_10001 = .unk17 33 1 := by decide
theorem test_decode_unk18 : decode 0b000000000000000000001_100001_10010 = .unk18 33 1 := by decide
theorem test_decode_unk19 : decode 0b000000000000000000001_100001_10011 = .unk19 33 1 := by decide
theorem test_decode_unk20 : decode 0b000000000000000000001_100001_10100 = .unk20 33 1 := by decide
theorem test_decode_unk21 : decode 0b000000000000000000001_100001_10101 = .unk21 33 1 := by decide
theorem test_decode_unk22 : decode 0b000000000000000000001_100001_10110 = .unk22 33 1 := by decide
theorem test_decode_unk23 : decode 0b000000000000000000001_100001_10111 = .unk23 33 1 := by decide
theorem test_decode_unk24 : decode 0b000000000000000000001_100001_11000 = .unk24 33 1 := by decide
theorem test_decode_unk26 : decode 0b000000000000000000001_100001_11010 = .unk26 33 1 := by decide
theorem test_decode_unk27 : decode 0b000000000000000000001_100001_11011 = .unk27 33 1 := by decide
theorem test_decode_unk28 : decode 0b000000000000000000001_100001_11100 = .unk28 33 1 := by decide
theorem test_decode_unk29 : decode 0b000000000000000000001_100001_11101 = .unk29 33 1 := by decide
theorem test_decode_unk30 : decode 0b000000000000000000001_100001_11110 = .unk30 33 1 := by decide
theorem test_decode_unk31 : decode 0b000000000000000000001_100001_11111 = .unk31 33 1 := by decide

/-! ### Words of 95_test_vectors.md section 2.1 and 2.2 -/

theorem test_decode_fields_mixed : decodeFields 0x12345678 = ⟨24, 51, 149130⟩ := by decide
theorem test_decode_fields_beef : decodeFields 0xDEADBEEF = ⟨15, 55, 1824183⟩ := by decide
theorem test_decode_fields_top : decodeFields 0x80000000 = ⟨0, 0, 1048576⟩ := by decide
theorem test_encode_write : encode (.writeMem 1 1023) = 0x001FF839 := by decide
theorem test_encode_bytes : encodeBytes (.negMem 2 1023) = [0x4A, 0xF8, 0x1F, 0x00] := by decide
theorem test_decode_truncated : (decodeBytes [0x06, 0x28]).toOption = none := by decide
theorem test_table_word : decodeTableWord 32 0x00005019 = some (.writeMem 0 10) := by decide
theorem test_table_word_short : decodeTableWord 8 0x1F = some (.unk31 0 0) := by decide
theorem test_table_word_wide : decodeTableWord 40 6 = none := by decide

/-! ## Checks on values from outside: an ill-formed term for each -/

theorem test_illformed_opcode : ¬ (RawFields.mk 32 0 0).wellFormed := by decide
theorem test_illformed_register : ¬ (RawFields.mk 6 64 0).wellFormed := by decide
theorem test_illformed_operand : ¬ (RawFields.mk 6 0 2097152).wellFormed := by decide
theorem test_illformed_first_field : (RawFields.mk 6 64 2097152).firstOversize = some (.register, 64) := by decide
theorem test_illformed_empty_binary : ¬ WellFormed.binary [] := by decide
theorem test_illformed_binary_of_six : ¬ WellFormed.binary [1, 2, 3, 4, 5, 6] := by decide
theorem test_illformed_dump_end : ¬ WellFormed.dumpRange 1024 1020 2000 := by decide
theorem test_illformed_dump_start : ¬ WellFormed.dumpRange 1024 1024 1024 := by decide
theorem test_wellformed_empty_dump : WellFormed.dumpRange 1024 5 3 := by decide
theorem test_illformed_config : ¬ WellFormed.config { Config.hardware with memSize := 0 } := by decide

/-! ## One step of each instruction

The start state of 95_test_vectors.md section 2.6: x[4] = 9, M[5] = 9, every other register and cell 0. -/

/-- The next state of an outcome. -/
def nextOf (o : Host.Outcome State Fault Refusal) : Option State :=
  match o with
  | .next t => some t
  | _ => none

/-- That start state, at ip = 2. -/
def nine : State :=
  { State.reset with regs := State.reset.regs.set 4 9, mem := [(5, 9)], ip := 2 }

/-- The same with STRICT_OPCODES. -/
def strictNine : State :=
  { nine with params := { nine.params with strictOpcodes := true } }

/-- The status after one step that runs the word as the first instruction after reset. -/
def firstStep (w : Nat) : Option State :=
  nextOf (step (State.reset.withFetchWord 32 w))

theorem test_loadConst_value : (firstStep 0x00002806).map (·.readReg 0) = some 5 := by decide
theorem test_loadConst_largest :
    (nextOf (exec (.loadConst 1 0x1FFFFF) nine)).map (fun t => (t.readReg 1, t.ip)) = some (0x001FFFFF, 3) := by decide
theorem test_readMem_value : (nextOf (exec (.readMem 4 1023) nine)).map (·.readReg 4) = some 0 := by decide
theorem test_readMem_out_of_bounds :
    (nextOf (exec (.readMem 4 1024) nine)).map (fun t => (t.status, t.ip, t.touched)) =
      some (.fatal (.outOfBoundsAccess 2 0x00200088 1024), 2, 0) := by decide
theorem test_writeMem_last_cell :
    (nextOf (exec (.writeMem 4 1023) nine)).map (fun t => (t.mem, t.touched)) =
      some ([(5, 9), (1023, 9)], 0b10000) := by decide
theorem test_writeMem_zero_unlists : (nextOf (exec (.writeMem 7 5) nine)).map (·.mem) = some [] := by decide
theorem test_negMem_value : (nextOf (exec (.negMem 4 5) nine)).map (·.readReg 4) = some 0xFFFFFFF7 := by decide
theorem test_negMem_out_of_bounds :
    (nextOf (exec (.negMem 4 0x1FFFFF) nine)).map (·.status) =
      some (.fatal (.outOfBoundsAccess 2 0xFFFFF88A 2097151)) := by decide
theorem test_negate_values :
    negate 0 = 0 ∧ negate 7 = 0xFFFFFFF9 ∧ negate 0xFFFFFFF9 = 7 ∧ negate 0x001FFFFF = 0xFFE00001 := by decide
theorem test_memSize_2048 :
    (nextOf (exec (.readMem 4 1024) { nine with params := { nine.params with memSize := 2048 } })).map
      (fun t => (t.status, t.readReg 4)) = some (.running, 0) := by decide
theorem test_unk0_only_records : nextOf (exec (.unk0 4 0x1FFFFF) nine) = some { nine with ip := 3, touched := 0b10000 } := by decide
theorem test_unk1_only_records : nextOf (exec (.unk1 4 0x1FFFFF) nine) = some { nine with ip := 3, touched := 0b10000 } := by decide
theorem test_unk2_only_records : nextOf (exec (.unk2 4 0x1FFFFF) nine) = some { nine with ip := 3, touched := 0b10000 } := by decide
theorem test_unk3_only_records : nextOf (exec (.unk3 4 0x1FFFFF) nine) = some { nine with ip := 3, touched := 0b10000 } := by decide
theorem test_unk4_only_records : nextOf (exec (.unk4 4 0x1FFFFF) nine) = some { nine with ip := 3, touched := 0b10000 } := by decide
theorem test_unk5_only_records : nextOf (exec (.unk5 4 0x1FFFFF) nine) = some { nine with ip := 3, touched := 0b10000 } := by decide
theorem test_unk7_only_records : nextOf (exec (.unk7 4 0x1FFFFF) nine) = some { nine with ip := 3, touched := 0b10000 } := by decide
theorem test_unk9_only_records : nextOf (exec (.unk9 4 0x1FFFFF) nine) = some { nine with ip := 3, touched := 0b10000 } := by decide
theorem test_unk11_only_records : nextOf (exec (.unk11 4 0x1FFFFF) nine) = some { nine with ip := 3, touched := 0b10000 } := by decide
theorem test_unk12_only_records : nextOf (exec (.unk12 4 0x1FFFFF) nine) = some { nine with ip := 3, touched := 0b10000 } := by decide
theorem test_unk13_only_records : nextOf (exec (.unk13 4 0x1FFFFF) nine) = some { nine with ip := 3, touched := 0b10000 } := by decide
theorem test_unk14_only_records : nextOf (exec (.unk14 4 0x1FFFFF) nine) = some { nine with ip := 3, touched := 0b10000 } := by decide
theorem test_unk15_only_records : nextOf (exec (.unk15 4 0x1FFFFF) nine) = some { nine with ip := 3, touched := 0b10000 } := by decide
theorem test_unk16_only_records : nextOf (exec (.unk16 4 0x1FFFFF) nine) = some { nine with ip := 3, touched := 0b10000 } := by decide
theorem test_unk17_only_records : nextOf (exec (.unk17 4 0x1FFFFF) nine) = some { nine with ip := 3, touched := 0b10000 } := by decide
theorem test_unk18_only_records : nextOf (exec (.unk18 4 0x1FFFFF) nine) = some { nine with ip := 3, touched := 0b10000 } := by decide
theorem test_unk19_only_records : nextOf (exec (.unk19 4 0x1FFFFF) nine) = some { nine with ip := 3, touched := 0b10000 } := by decide
theorem test_unk20_only_records : nextOf (exec (.unk20 4 0x1FFFFF) nine) = some { nine with ip := 3, touched := 0b10000 } := by decide
theorem test_unk21_only_records : nextOf (exec (.unk21 4 0x1FFFFF) nine) = some { nine with ip := 3, touched := 0b10000 } := by decide
theorem test_unk22_only_records : nextOf (exec (.unk22 4 0x1FFFFF) nine) = some { nine with ip := 3, touched := 0b10000 } := by decide
theorem test_unk23_only_records : nextOf (exec (.unk23 4 0x1FFFFF) nine) = some { nine with ip := 3, touched := 0b10000 } := by decide
theorem test_unk24_only_records : nextOf (exec (.unk24 4 0x1FFFFF) nine) = some { nine with ip := 3, touched := 0b10000 } := by decide
theorem test_unk26_only_records : nextOf (exec (.unk26 4 0x1FFFFF) nine) = some { nine with ip := 3, touched := 0b10000 } := by decide
theorem test_unk27_only_records : nextOf (exec (.unk27 4 0x1FFFFF) nine) = some { nine with ip := 3, touched := 0b10000 } := by decide
theorem test_unk28_only_records : nextOf (exec (.unk28 4 0x1FFFFF) nine) = some { nine with ip := 3, touched := 0b10000 } := by decide
theorem test_unk29_only_records : nextOf (exec (.unk29 4 0x1FFFFF) nine) = some { nine with ip := 3, touched := 0b10000 } := by decide
theorem test_unk30_only_records : nextOf (exec (.unk30 4 0x1FFFFF) nine) = some { nine with ip := 3, touched := 0b10000 } := by decide
theorem test_unk31_only_records : nextOf (exec (.unk31 4 0x1FFFFF) nine) = some { nine with ip := 3, touched := 0b10000 } := by decide
theorem test_unk31_strict :
    (nextOf (exec (.unk31 0 0) strictNine)).map (·.status) =
      some (.fatal (.unknownInstruction 2 0x0000001F 31)) := by decide

/-! ## The step, the start of a run, the end of a run -/

theorem test_reset_step_is_done : (nextOf (step State.reset)).map (·.status) = some .done := by decide
theorem test_unk0_first_step : (firstStep 0x00000120).map (fun t => (t.touched, t.ip)) = some (0b1000000000, 1) := by decide
theorem test_fetch_word_keeps_the_stream :
    ({ State.reset with imem := [1, 2, 3], ip := 1 }.withFetchWord 32 6).imem = [1, 6, 3] := by decide
theorem test_boot_order :
    (match boot Config.hardware ⟨[], 1020, 2000⟩ (some [1, 2, 3, 4, 5, 6]) with
      | .error e => some e.code | .ok _ => none) = some 5 := by decide
theorem test_boot_misaligned :
    (match boot Config.hardware ⟨[], 0, 0⟩ (some [1, 2, 3, 4, 5, 6]) with
      | .error e => some e | .ok _ => none) = some (.misalignedBinary [] 6) := by decide
theorem test_boot_words :
    (match boot Config.hardware ⟨[], 10, 11⟩ (some [0x06, 0x28, 0, 0, 0x19, 0x50, 0, 0]) with
      | .error _ => none | .ok s => some s.imem) = some [0x00002806, 0x00005019] := by decide
theorem test_execute_word_zero :
    execute Config.hardware ⟨[], 1023, 1024⟩ (some [0, 0, 0, 0]) =
      some (.result { registers := [(0, 0)], memory := [(1023, 0)] }) := by decide
theorem test_snapshot_of_nine :
    ({ nine with touched := 0b10000, params := { nine.params with dumpStart := 4, dumpEnd := 6 } }).snapshot =
      { registers := [(4, 9)], memory := [(4, 0), (5, 9)] } := by decide

/-! ## Renderings and the assembler (95_test_vectors.md sections 1, 2.3 and 3) -/

/-- The bytes of an ASCII text. -/
def ascii (text : Text) : List Byte :=
  text.map asciiByte

/-- The words and log of a listing, or the code and line of its error. -/
def outcomeOf (policy : OversizePolicy) (listing : List Byte) : Option (List InsnWord) × Option (Nat × Nat) :=
  match assemble policy listing with
  | .ok out => (some out.words, none)
  | .error (.parseError n _ _) => (none, some (2, n))
  | .error (.fieldRange n _ _ _) => (none, some (7, n))
  | .error e => (none, some (e.code, 0))

theorem test_render_register : registerKey 63 = ['r', 'e', 'g', 'i', 's', 't', 'e', 'r', '_', '6', '3'] := by decide
theorem test_render_address : addressKey 1023 = ['0', 'x', '0', '3', 'f', 'f'] := by decide
theorem test_render_value : signedDecimal (-7) = ['-', '7'] := by decide
theorem test_render_word :
    wordHex 0x00002806 = ['0', 'x', '0', '0', '0', '0', '2', '8', '0', '6'] := by decide
theorem test_print : printInstr (.loadConst 0 5) = "LOAD_CONST r0, 5".toList := by decide

theorem test_assemble_blank_lines :
    assemble .reject
        (ascii ['\n', '\n', '0', 'x', '0', '6', ' ', '0', 'x', '0', '0', ' ', '0', 'x', '0', '5', '\n', ' ', ' ', '\n'])
      = .ok ⟨[0x00002806], [(['l', 'i', 'n', 'e', '_', '3'], wordHex 0x00002806)]⟩ := by rfl
theorem test_assemble_prefix_not_examined :
    outcomeOf .reject (ascii ['a', 'b', '5', ' ', '0', 'x', '0', '0', ' ', '0', 'x', '0', '1'])
      = (some [0x00000805], none) := by decide
theorem test_assemble_two_tokens :
    outcomeOf .reject (ascii ['\n', '0', 'x', '0', '6', ' ', '0', 'x', '0', '0']) = (none, some (2, 2)) := by decide
theorem test_assemble_no_digits :
    outcomeOf .reject (ascii ['0', 'x', ' ', '0', 'x', '0', ' ', '0', 'x', '0']) = (none, some (2, 1)) := by decide
theorem test_assemble_not_hex :
    outcomeOf .reject (ascii ['0', 'x', '-', '1', ' ', '0', 'x', '0', ' ', '0', 'x', '0']) = (none, some (2, 1)) := by decide
theorem test_assemble_oversize_reject :
    outcomeOf .reject (ascii ['0', 'x', '0', '6', ' ', '0', 'x', '4', '0', ' ', '0', 'x', '0']) = (none, some (7, 1)) := by
  decide
theorem test_assemble_oversize_mask :
    outcomeOf .mask (ascii ['0', 'x', '0', '6', ' ', '0', 'x', '4', '0', ' ', '0', 'x', '0'])
      = (some [0x00000006], none) := by decide
theorem test_assemble_tabs :
    outcomeOf .reject (ascii ['\t', '0', 'x', '0', '8', '\t', '0', 'x', '3', 'F', '\t', '0', 'x', '3', 'F', 'F', '\r'])
      = (some [0x001FFFE8], none) := by decide
theorem test_utf8_two_bytes : decodeUtf8 [0xC3, 0xA9] = some [0xE9] := by decide
theorem test_utf8_overlong : decodeUtf8 [0xC0, 0x80] = none := by decide
theorem test_utf8_surrogate : decodeUtf8 [0xED, 0xA0, 0x80] = none := by decide
theorem test_utf8_truncated : decodeUtf8 [0x30, 0xE2, 0x82] = none := by decide
theorem test_invalid_line : outcomeOf .reject [0x0A, 0xFF] = (none, some (2, 2)) := by decide
theorem test_invoke_missing_listing :
    (invoke Config.hardware [] ⟨some ⟨['a'], ['b']⟩, none⟩).error = some (.fileNotFound ['a']) := by decide

/-! ## Witnesses: concrete states and operands that meet the hypotheses of each statement, clause by clause -/

/-- A start state over a two-word stream: LOAD_CONST r0, 5 and WRITE_MEM r0, 10. -/
def booted : State :=
  startState Config.hardware 10 11 [0x00002806, 0x00005019]

/-- A running state at a WRITE_MEM r4, 1024. -/
def atBadStore : State :=
  { nine with ip := 0, imem := [0x00200099] }

theorem reset_valuesInRange : ValuesInRange State.reset := by
  constructor <;> intro k <;> simp [valueInRange]

theorem booted_valuesInRange : ValuesInRange booted := reset_valuesInRange

theorem witness_BinaryFileHoldsLittleEndianWords :
    0 < [0x06, 0x28, (0 : Byte), 0].length ∧ [0x06, 0x28, (0 : Byte), 0].length % 4 = 0 := by decide
theorem witness_OpcodeFieldAloneSelectsTheOperation :
    (0xFFFFFFE6 : InsnWord) &&& 0x1F = 0x06 ∧ (0xFFFFFFE8 : InsnWord) &&& 0x1F = 0x08 ∧
    (0xFFFFFFF9 : InsnWord) &&& 0x1F = 0x19 ∧ (0xFFFFFFEA : InsnWord) &&& 0x1F = 0x0A ∧
    ¬ Recognized (decodeFields 0xFFFFFFFF).a ∧ (0x00002806 : InsnWord) &&& 0x1F = 0xFFFFFFE6 &&& 0x1F := by decide
/-- For ReadMemCopiesTheCell, WriteMemStoresTheRegister and NegMemNegatesTheCell: the last cell, and the first index past it. -/
theorem witness_accesses_at_both_sides_of_memSize :
    (1023 : Operand).toNat < nine.params.memSize ∧ nine.params.memSize ≤ (1024 : Operand).toNat := by decide
theorem witness_NegMem_least_and_other_values :
    ({ nine with mem := [(5, 0x80000000)] }.readCell 5).toInt = -2 ^ 31 ∧ (nine.readCell 5).toInt ≠ -2 ^ 31 := by decide
theorem witness_UnrecognizedOpcodesOnlyRecord :
    ((31 : Opcode), Instr.unk31) ∈ unrecognizedOpcodes ∧ nine.params.strictOpcodes = false := by
  refine ⟨?_, rfl⟩
  simp [unrecognizedOpcodes]
theorem witness_StrictOpcodesRaiseUnknownInstruction :
    ((0 : Opcode), Instr.unk0) ∈ unrecognizedOpcodes ∧ strictNine.params.strictOpcodes = true := by
  refine ⟨?_, rfl⟩
  simp [unrecognizedOpcodes]
theorem witness_UnrecognizedOpcodesIgnoreTheirOperand :
    ¬ Recognized 31 ∧ nine.params.strictOpcodes = false := by decide
theorem witness_OutOfBoundsIsRaisedByMemoryAccessesOnly :
    nine.status = .running ∧ AccessesMemory (Instr.negMem 4 1024).opcode ∧
    nine.params.memSize ≤ (Instr.negMem 4 1024).operand.toNat := by decide
theorem witness_NegationIsExactOnReachableValues :
    ValuesInRange booted ∧ (1023 : Operand).toNat < booted.params.memSize :=
  ⟨booted_valuesInRange, by decide⟩
theorem witness_StepRunsTheDecodedInstruction :
    booted.status = .running ∧ booted.imem[booted.ip]? = some 0x00002806 := by decide
theorem witness_StepAtEndOfStreamIsDone :
    (State.reset.status = .running ∧ State.reset.ip = State.reset.imem.length) ∧
    State.reset.finish.status = .done ∧ (State.reset.fail .usageError).status = .fatal .usageError := by decide
theorem witness_StepAnswersNextExactlyWhileRunning : ProgressSound booted ∧ ProgressSound State.reset.finish :=
  ⟨⟨by decide, trivial⟩, by decide, rfl⟩
/-- For EveryInstructionRecordsItsRegister and IpAdvancesByOneOrTheRunEnds. -/
theorem witness_instruction_that_retires :
    nine.status = .running ∧ ∃ t, exec (.readMem 4 5) nine = .next t ∧ t.status = .running :=
  ⟨rfl, _, rfl, rfl⟩
/-- For IpAdvancesByOneOrTheRunEnds, its second case. -/
theorem witness_instruction_that_fails :
    nine.status = .running ∧ ∃ t, exec (.readMem 4 1024) nine = .next t ∧ ∃ e, t.status = .fatal e :=
  ⟨rfl, _, rfl, _, rfl⟩
/-- For NoStepWritesTheStreamOrTheParameters and StepWritesOnlyItsRegisterAndCell. -/
theorem witness_step_that_changes_a_register :
    booted.status = .running ∧ booted.imem[booted.ip]? = some 0x00002806 ∧
    ∃ t, step booted = .next t ∧ t.readReg 0 ≠ booted.readReg 0 :=
  ⟨rfl, rfl, _, rfl, by decide⟩
/-- For StepWritesOnlyItsRegisterAndCell, its second clause. -/
theorem witness_step_that_changes_a_cell :
    ∃ s t : State, s.status = .running ∧ s.imem[s.ip]? = some 0x00005099 ∧ step s = .next t ∧
      t.readCell 10 ≠ s.readCell 10 :=
  ⟨{ nine with ip := 0, imem := [0x00005099] }, _, rfl, rfl, rfl, by decide⟩
theorem witness_OnlyWriteMemReadsARegister :
    (Instr.negMem 2 5).opcode ≠ 25 ∧ Recognized (Instr.negMem 2 5).opcode ∧ nine.status = .running ∧
    (∃ t, exec (.negMem 2 5) nine = .next t ∧ t.status = .running) ∧
    ∃ t', exec (.negMem 2 5) { nine with regs := Vector.replicate 64 1 } = .next t' :=
  ⟨by decide, by decide, rfl, ⟨_, rfl, rfl⟩, _, rfl⟩
theorem witness_FailingStepChangesOnlyTheStatus_bounds :
    ∃ t, step atBadStore = .next t ∧ t.status = .fatal (.outOfBoundsAccess 0 0x00200099 1024) :=
  ⟨_, rfl, by decide⟩
theorem witness_FailingStepChangesOnlyTheStatus_strict :
    ∃ t, step { strictNine with ip := 0, imem := [0x0000001F] } = .next t ∧
      t.status = .fatal (.unknownInstruction 0 0x0000001F 31) :=
  ⟨_, rfl, by decide⟩
theorem witness_ReadAfterWriteSeesTheValueWritten : (1023 : Operand).toNat < nine.params.memSize := by decide
theorem witness_ResetIsTheStartOfRunState :
    boot Config.hardware ⟨[], 10, 11⟩ (some [0x06, 0x28, 0, 0, 0x19, 0x50, 0, 0]) = .ok booted := by rfl
theorem witness_MemoryStaysCanonicalAndInBounds :
    MemorySound { nine with ip := 0, imem := [0x00005099] } ∧
    ∃ t, step { nine with ip := 0, imem := [0x00005099] } = .next t := by
  refine ⟨⟨⟨by simp [nine], by simp [nine]⟩, ?_⟩, _, rfl⟩
  simp only [nine, List.mem_singleton, forall_eq]
  decide
theorem witness_ValuesStayInRange : ValuesInRange booted ∧ ∃ t, step booted = .next t :=
  ⟨booted_valuesInRange, _, rfl⟩
theorem witness_ProgressStaysSound : ProgressSound booted ∧ ∃ t, step booted = .next t :=
  ⟨⟨by decide, trivial⟩, _, rfl⟩
theorem witness_BootedRunsKeepTheInvariants :
    boot Config.hardware ⟨[], 10, 11⟩ (some [0x06, 0x28, 0, 0, 0x19, 0x50, 0, 0]) = .ok booted ∧
    ∃ t, Steps 1 booted t :=
  ⟨rfl, _, .tail (.refl _) rfl⟩
theorem witness_RunTakesOneStepPerWord :
    (booted.status = .running ∧ ∃ t, Steps 1 booted t ∧ t.status = .running) ∧
    (State.reset.status = .running ∧ ∃ t, Steps 1 State.reset t ∧ t.status = .done) :=
  ⟨⟨rfl, _, .tail (.refl _) rfl, rfl⟩, rfl, _, .tail (.refl _) rfl, rfl⟩
theorem witness_RunEndsWithinItsLength : booted.ip ≤ booted.imem.length := by decide
theorem witness_RecordedSnapshotIsTheRegisterFileOnT :
    ∀ r, Records.lookup [] r = if booted.isTouched r then some (booted.readReg r) else none := by
  intro r
  rw [show booted.isTouched r = false from State.isTouched_reset r]
  rfl
theorem witness_SnapshotShowsTouchedRegistersAndTheDump :
    booted.finish.status = .done ∧ (booted.fail .usageError).status = .fatal .usageError ∧
    booted.status = .running := by decide
theorem witness_StartOfRunChecksInOrder :
    ¬ ((0 : Int) ≤ 1024 ∧ (1024 : Int) < Config.hardware.memSize ∧ (0 : Int) ≤ 1024 ∧
        (1024 : Int) ≤ Config.hardware.memSize) ∧
    ((0 : Int) ≤ 1023 ∧ (1023 : Int) < Config.hardware.memSize ∧ (0 : Int) ≤ 1024 ∧
        (1024 : Int) ≤ Config.hardware.memSize) ∧
    ([] : List Byte).length = 0 ∧ [(1 : Byte), 2, 3, 4, 5, 6].length % 4 ≠ 0 ∧
    [(0 : Byte), 0, 0, 0].length ≠ 0 ∧ [(0 : Byte), 0, 0, 0].length % 4 = 0 := by decide
theorem witness_CellWidthIsUnobservable : 22 ≤ 22 ∧ 22 ≤ 32 := by decide
theorem witness_FirstFailingLineEndsTheAssembly :
    ∃ e, assemble .reject (ascii ['\n', '0', 'x', '0', '6', ' ', '0', 'x', '0', '0']) = .error e := ⟨_, rfl⟩
theorem witness_BlankLinesAreSkipped :
    ∀ x ∈ [(0x20 : Byte), 0x09, 0x0D, 0x0B, 0x0C],
      x = 0x20 ∨ x = 0x09 ∨ x = 0x0D ∨ x = 0x0B ∨ x = 0x0C := by decide
theorem witness_LineWithoutThreeTokensIsAParseError :
    decodeUtf8 (ascii ['0', 'x', '0', '6', ' ', '0', 'x', '0']) = some [0x30, 0x78, 0x30, 0x36, 0x20, 0x30, 0x78, 0x30] ∧
    tokens [0x30, 0x78, 0x30, 0x36, 0x20, 0x30, 0x78, 0x30] ≠ [] ∧
    (tokens [0x30, 0x78, 0x30, 0x36, 0x20, 0x30, 0x78, 0x30]).length ≠ 3 := by decide
/-- The same with four tokens. -/
theorem witness_LineWithFourTokens :
    decodeUtf8 (ascii ['0', 'x', '6', ' ', '0', 'x', '0', ' ', '0', 'x', '5', ' ', '0', 'x', '0']) =
      some [0x30, 0x78, 0x36, 0x20, 0x30, 0x78, 0x30, 0x20, 0x30, 0x78, 0x35, 0x20, 0x30, 0x78, 0x30] ∧
    (tokens [0x30, 0x78, 0x36, 0x20, 0x30, 0x78, 0x30, 0x20, 0x30, 0x78, 0x35, 0x20, 0x30, 0x78, 0x30]).length = 4 := by
  decide
theorem witness_TokenIsAPrefixAndHexDigits :
    [(0x30 : CodePoint), 0x78].length ≤ 2 ∧ (∃ d ∈ [(0x5F : CodePoint), 0x35], hexDigit d = none) ∧
    [(0x33 : CodePoint), 0x66, 0x46] ≠ [] ∧ [(0x33 : CodePoint), 0x66, 0x46].map hexDigit = [3, 15, 15].map some := by
  refine ⟨by decide, ⟨0x5F, by simp, by decide⟩, by decide, by decide⟩
theorem witness_OversizeValuesAreRejectedOrMasked :
    decodeUtf8 (ascii ['0', 'x', '6', ' ', '0', 'x', '0', ' ', '0', 'x', '5']) =
      some [0x30, 0x78, 0x36, 0x20, 0x30, 0x78, 0x30, 0x20, 0x30, 0x78, 0x35] ∧
    tokens [0x30, 0x78, 0x36, 0x20, 0x30, 0x78, 0x30, 0x20, 0x30, 0x78, 0x35] =
      [[0x30, 0x78, 0x36], [0x30, 0x78, 0x30], [0x30, 0x78, 0x35]] ∧
    parseToken 0 [0x30, 0x78, 0x36] = .ok 6 ∧ parseToken 1 [0x30, 0x78, 0x30] = .ok 0 ∧
    parseToken 2 [0x30, 0x78, 0x35] = .ok 5 :=
  ⟨by decide, by decide, rfl, rfl, rfl⟩

/-- The values on both sides of each bound, as tokens: 31 and 32, 63 and 64, 2097151 and 2097152. -/
theorem witness_OversizeValues_at_the_bounds :
    parseToken 0 [0x30, 0x78, 0x31, 0x66] = .ok 31 ∧ parseToken 0 [0x30, 0x78, 0x32, 0x30] = .ok 32 ∧
    parseToken 1 [0x30, 0x78, 0x33, 0x66] = .ok 63 ∧ parseToken 1 [0x30, 0x78, 0x34, 0x30] = .ok 64 ∧
    parseToken 2 [0x30, 0x78, 0x31, 0x66, 0x66, 0x66, 0x66, 0x66] = .ok 2097151 ∧
    parseToken 2 [0x30, 0x78, 0x32, 0x30, 0x30, 0x30, 0x30, 0x30] = .ok 2097152 :=
  ⟨rfl, rfl, rfl, rfl, rfl, rfl⟩

theorem witness_LineErrorsNameTheLineAndItsText :
    decodeUtf8 [0xFF] = none ∧
    parseToken 0 [0x30, 0x78, 0x5A] = .error (.notHex 0) ∧ parseToken 1 [0x30, 0x78] = .error (.noDigits 1) ∧
    parseToken 2 [0x30, 0x78, 0x5A] = .error (.notHex 2) ∧
    tokens [0x30, 0x78, 0x36, 0x20, 0x30, 0x78, 0x20, 0x30, 0x78, 0x5A] =
      [[0x30, 0x78, 0x36], [0x30, 0x78], [0x30, 0x78, 0x5A]] :=
  ⟨by decide, rfl, rfl, rfl, by decide⟩
theorem witness_EveryCellHasAnOperand : WellFormed.config Config.hardware ∧ 1023 < Config.hardware.memSize := by
  decide
theorem test_wellformed_start : WellFormed.dumpRange 1024 1023 1024 ∧ WellFormed.binary [0, 0, 0, 0] := by decide
theorem witness_ResultKeysAreDistinct : registerKey 7 = registerKey 7 ∧ addressKey 65536 = addressKey 65536 :=
  ⟨rfl, rfl⟩
theorem witness_AssemblyRunsBeforeExecution :
    (∃ e, assembleRequest Config.hardware [] ⟨['a'], ['b']⟩ = .error e) ∧
    (∃ bytes log, assembleRequest Config.hardware
      [(['a'], ascii ['0', 'x', '6', ' ', '0', 'x', '0', ' ', '0', 'x', '5'])] ⟨['a'], ['b']⟩ = .ok (bytes, log)) ∧
    (['b'] : Path) ≠ ['c'] :=
  ⟨⟨_, rfl⟩, ⟨_, _, rfl⟩, by decide⟩
theorem witness_EachOperationRunsAlone :
    Files.get [] ['a'] = none ∧
    Files.get [(['a'], [0xFF])] ['a'] = some [0xFF] ∧ (∃ e, assemble .reject [0xFF] = .error e) ∧
    (∃ out, assemble .reject (ascii ['0', 'x', '6', ' ', '0', 'x', '0', ' ', '0', 'x', '5']) = .ok out) ∧
    (∃ e, assembleRequest Config.hardware [] ⟨['a'], ['b']⟩ = .error e) ∧
    (∃ bytes log, assembleRequest Config.hardware
      [(['a'], ascii ['0', 'x', '6', ' ', '0', 'x', '0', ' ', '0', 'x', '5'])] ⟨['a'], ['b']⟩ = .ok (bytes, log)) ∧
    (∃ r, execute Config.hardware ⟨['b'], 10, 11⟩ (some [0x06, 0x28, 0, 0]) = some (.result r)) ∧
    (∃ e, execute Config.hardware ⟨['b'], 10, 11⟩ (some []) = some (.fatal e)) ∧
    WellFormed.dumpRange Config.hardware.memSize 10 11 ∧ (['b'] : Path) ≠ ['c'] :=
  ⟨rfl, rfl, ⟨_, rfl⟩, ⟨_, rfl⟩, ⟨_, rfl⟩, ⟨_, _, rfl⟩, ⟨_, rfl⟩, ⟨_, rfl⟩, by decide, by decide⟩
/-- R105: execute alone on a missing binary file. -/
theorem test_invoke_execute_missing_binary :
    (invoke Config.hardware [] ⟨none, some ⟨['b'], 10, 11⟩⟩).error = some (.fileNotFound ['b']) := by decide
theorem test_log_key_is_the_physical_line :
    (match assemble .reject (ascii ['\n', '0', 'x', '6', ' ', '0', 'x', '0', ' ', '0', 'x', '5', '\n', '\n',
        '0', 'x', '8', ' ', '0', 'x', '0', ' ', '0', 'x', '5']) with
      | .ok out => out.log.map (·.1) | .error _ => []) =
      [['l', 'i', 'n', 'e', '_', '2'], ['l', 'i', 'n', 'e', '_', '4']] := by decide

end Sys2Proof.Tests
end

section
/-! PROOFS. The scope: the state after reset meets the invariants of a run, and every cell has its operand. -/

namespace Sys2Proof.Scope

open Sys2Proof.Machine Sys2Proof.Safety

/-- A memory that lists no cell is sound whatever MEM_SIZE is (R31). -/
theorem memorySound_of_mem_eq_nil {s : State} (h : s.mem = []) : MemorySound s := by
  rw [MemorySound, h]
  exact ⟨Memory.wf_nil, fun _ listed => absurd listed List.not_mem_nil⟩

theorem valueInRange_zero : valueInRange 0 := by decide

theorem valuesInRange_reset : ValuesInRange State.reset := by
  constructor
  · intro r
    rw [State.readReg_reset]
    exact valueInRange_zero
  · intro a
    rw [State.readCell_reset]
    exact valueInRange_zero

/-- A running state owes only `ip ≤ N` (R23, R29). -/
theorem progressSound_of_running {s : State} (running : s.status = .running) (h : s.ip ≤ s.imem.length) :
    ProgressSound s := by
  rw [ProgressSound, running]
  exact ⟨h, trivial⟩

/-- Settles O32: at reset the memory is empty, every value is 0 and `ip` is 0 in a running state. -/
theorem resetMeetsTheInvariants : Obligations.ResetMeetsTheInvariants :=
  ⟨State.reset_mem, memorySound_of_mem_eq_nil State.reset_mem, valuesInRange_reset,
    progressSound_of_running State.reset_status (Nat.zero_le _), rfl, rfl⟩

theorem cellIndex_ofNat {a : Nat} (h : a < Config.maxMemSize) : cellIndex (BitVec.ofNat 21 a) = a :=
  (BitVec.toNat_ofNat a 21).trans (Nat.mod_eq_of_lt h)

theorem cellIndex_injective : Function.Injective cellIndex :=
  fun _ _ => BitVec.eq_of_toNat_eq

/-- Settles O43: the operand of cell `a` is `a` in 21 bits, which `a < MEM_SIZE ≤ 2^21` fits (D2); the cell index
loses no bit of an operand, so there is no other. -/
theorem everyCellHasAnOperand : Obligations.EveryCellHasAnOperand := by
  rintro cfg ⟨-, legal⟩ a below
  have reached : cellIndex (BitVec.ofNat 21 a) = a := cellIndex_ofNat (below.trans_le legal)
  exact ⟨BitVec.ofNat 21 a, reached, fun c' same => cellIndex_injective (same.trans reached.symm)⟩

end Sys2Proof.Scope
end

section
/-! PROOFS. The step's reasoning layer: each outcome of `step` as an equation, and the forms a next state can have. -/

namespace Sys2Proof.Machine

open Sys2Proof.Safety

/-- The word of a decoded instruction is the fetched one (R54). -/
@[simp] theorem encode_decode (w : InsnWord) : encode (decode w) = w := by
  have packed : encodeFields (decodeFields w) = w := by
    have high : w.extractLsb' 11 21 ++ w.extractLsb' 5 6 = w.extractLsb' 5 27 :=
      BitVec.extractLsb'_append_extractLsb'_eq_extractLsb' rfl
    have all : w.extractLsb' 5 27 ++ w.extractLsb' 0 5 = w.extractLsb' 0 32 :=
      BitVec.extractLsb'_append_extractLsb'_eq_extractLsb' rfl
    rw [encodeFields, decodeFields, BitVec.ofFin_toFin, high, all, BitVec.extractLsb'_eq_self]
  rwa [encode, decode, fields_ofFields]

/-- Every instruction answers a next state: an error it raises is one too (R58, R103). -/
theorem exec_answers_next (i : Instr) (s : State) : ∃ t, exec i s = .next t := by
  rcases exec_cases i s with ⟨_, _, e⟩ | ⟨_, _, e⟩ | ⟨_, e⟩ | ⟨_, _, e⟩ | ⟨_, _, e⟩ | ⟨_, _, e⟩ | ⟨_, _, e⟩
  all_goals exact ⟨_, e⟩

/-! ## The outcomes of a step -/

theorem step_of_done {s : State} (h : s.status = .done) : step s = .fault .runDone := by
  simp only [step, h]

theorem step_of_fatal {s : State} {e : Error} (h : s.status = .fatal e) : step s = .fault (.runFatal e) := by
  simp only [step, h]

theorem step_at_end {s : State} (running : s.status = .running) (h : s.ip = s.imem.length) :
    step s = .next s.finish := by
  simp only [step, running, if_pos h]

theorem ip_lt_of_fetch {s : State} {w : InsnWord} (fetched : s.fetch = some w) : s.ip < s.imem.length :=
  (List.getElem?_eq_some_iff.mp fetched).1

theorem step_of_fetch {s : State} {w : InsnWord} (running : s.status = .running) (h : s.fetch = some w) :
    step s = exec (decode w) s := by
  simp only [step, running, if_neg (ip_lt_of_fetch h).ne, h]

theorem step_past_end {s : State} (running : s.status = .running) (beyond : s.ip ≠ s.imem.length)
    (h : s.fetch = none) : step s = .fault .fetchPastEnd := by
  simp only [step, running, if_neg beyond, h]

theorem step_ne_refused (s : State) (r : Refusal) : step s ≠ .refused r := by
  intro h
  match running : s.status with
  | .done => simp [step_of_done running] at h
  | .fatal e => simp [step_of_fatal running] at h
  | .running =>
    by_cases atEnd : s.ip = s.imem.length
    · simp [step_at_end running atEnd] at h
    · match fetched : s.fetch with
      | some w =>
        obtain ⟨t, e⟩ := exec_answers_next (decode w) s
        simp [step_of_fetch running fetched, e] at h
      | none => simp [step_past_end running atEnd fetched] at h

/-! ## The forms of a next state -/

/-- The value an instruction writes to its register (R96, R97, R99). -/
inductive WrittenValue (i : Instr) (s : State) : Word → Prop where
  | immediate (op : i.opcode = 6) : WrittenValue i s (immediate i.operand)
  | cell (op : i.opcode = 8) : WrittenValue i s (s.readCell (cellIndex i.operand))
  | negated (op : i.opcode = 10) : WrittenValue i s (negate (s.readCell (cellIndex i.operand)))

/-- What an instruction can make of a state: an error, or the record and advance after one write or none. -/
inductive Effect (i : Instr) (s : State) : State → Prop where
  | fail (e : Error) : Effect i s (s.fail e)
  | register {v : Word} (value : WrittenValue i s v) : Effect i s ((s.writeReg i.register v).retire i.register)
  | cell (op : i.opcode = 25) (below : cellIndex i.operand < s.params.memSize) :
      Effect i s ((s.writeCell (cellIndex i.operand) (s.readReg i.register)).retire i.register)
  | record : Effect i s (s.retire i.register)

theorem effect_of_exec {i : Instr} {s t : State} (h : exec i s = .next t) : Effect i s t := by
  rcases exec_cases i s with
    ⟨_, _, e⟩ | ⟨_, _, e⟩ | ⟨op, e⟩ | ⟨op, _, e⟩ | ⟨op, below, e⟩ | ⟨op, _, e⟩ | ⟨_, _, e⟩
  all_goals
    rw [e] at h
    cases h
  · exact .fail _
  · exact .fail _
  · exact .register (.immediate op)
  · exact .register (.cell op)
  · exact .cell op below
  · exact .register (.negated op)
  · exact .record

/-- An instruction fails and changes nothing else, or it records its register and advances (R87, R88, R103). -/
theorem failed_or_retired {i : Instr} {s t : State} (effect : Effect i s t) :
    (∃ e, t = s.fail e) ∨ Retired i.register s t := by
  cases effect with
  | fail e => exact .inl ⟨e, rfl⟩
  | register => exact .inr ⟨State.isTouched_retire _ _, rfl, rfl, rfl, rfl⟩
  | cell => exact .inr ⟨State.isTouched_retire _ _, rfl, rfl, rfl, rfl⟩
  | record => exact .inr ⟨State.isTouched_retire _ _, rfl, rfl, rfl, rfl⟩

/-- What a step can make of a state: the closing step at `ip = N`, or the effect of the word fetched before N (R77). -/
inductive StepEffect (s : State) : State → Prop where
  | finish (atEnd : s.ip = s.imem.length) : StepEffect s s.finish
  | run {w : InsnWord} {t : State} (fetched : s.fetch = some w) (effect : Effect (decode w) s t) : StepEffect s t

theorem stepEffect_of_step {s t : State} (h : step s = .next t) : StepEffect s t := by
  obtain ⟨-, ⟨atEnd, rfl⟩ | ⟨w, -, fetched, ran⟩⟩ := step_cases h
  · exact .finish atEnd
  · exact .run fetched (effect_of_exec ran)

end Sys2Proof.Machine
end

section
/-! PROOFS. The invariants of a step, and of every state a run reaches. -/

namespace Sys2Proof.Invariants

open Sys2Proof.Machine Sys2Proof.Safety Sys2Proof.Scope

/-! ## The memory -/

theorem memorySound_writeCell {s : State} {a : Nat} (v : Word) (sound : MemorySound s) (below : a < s.params.memSize) :
    MemorySound (s.writeCell a v) := by
  obtain ⟨canonical, inside⟩ := sound
  refine ⟨Memory.wf_write a v canonical, fun e listed => ?_⟩
  rcases Memory.mem_write listed with ⟨rfl, -⟩ | before
  · exact below
  · exact inside e before

/-- Settles O33: only WRITE_MEM changes the memory, and it stores below MEM_SIZE (R38). -/
theorem memoryStaysCanonicalAndInBounds : Obligations.MemoryStaysCanonicalAndInBounds := by
  intro s t sound h
  cases stepEffect_of_step h with
  | finish => exact sound
  | run _ effect =>
    cases effect with
    | fail => exact sound
    | register => exact sound
    | cell _ below => exact memorySound_writeCell _ sound below
    | record => exact sound

/-! ## The values -/

/-- `negate` is two's complement negation (R11). -/
theorem negate_eq_neg (v : Word) : negate v = -v := rfl

/-- Negation is exact for every cell width that holds the range of R22 with its sign. -/
theorem toInt_neg_of_inRange {xlen : Nat} (wide : 22 ≤ xlen) {v : BitVec xlen} (low : -(2 ^ 21 - 1) ≤ v.toInt) :
    (-v).toInt = -v.toInt := by
  refine BitVec.toInt_neg_of_ne_intMin fun least => ?_
  have spread : (2 : Nat) ^ 21 ≤ 2 ^ (xlen - 1) := Nat.pow_le_pow_right (by omega) (by omega)
  have fits : (2 : Nat) ^ (xlen - 1) < 2 ^ xlen := Nat.pow_lt_pow_right (by omega) (by omega)
  rw [least, BitVec.toInt_intMin, Nat.mod_eq_of_lt fits] at low
  omega

/-- An operand widened with zeros is not negative where the cell is wider than the operand field (R55). -/
theorem toInt_setWidth_operand {xlen : Nat} (wide : 22 ≤ xlen) (c : Operand) :
    (c.setWidth xlen).toInt = c.toNat := by
  have spread : (2 : Nat) ^ 22 ≤ 2 ^ xlen := Nat.pow_le_pow_right (by omega) wide
  have small : c.toNat < 2 ^ 21 := c.isLt
  have kept : (c.setWidth xlen).toNat = c.toNat := BitVec.toNat_setWidth_of_le (by omega)
  rw [BitVec.toInt_eq_toNat_of_lt (by omega), kept]

theorem toInt_negate {v : Word} (range : valueInRange v) : (negate v).toInt = -v.toInt := by
  rw [negate_eq_neg]
  exact toInt_neg_of_inRange (by decide) range.1

theorem valueInRange_immediate (c : Operand) : valueInRange (immediate c) := by
  have small : c.toNat < 2 ^ 21 := c.isLt
  have value : (immediate c).toInt = c.toNat := toInt_setWidth_operand (by decide) c
  rw [valueInRange, value]
  omega

theorem valueInRange_negate {v : Word} (range : valueInRange v) : valueInRange (negate v) := by
  rw [valueInRange, toInt_negate range]
  obtain ⟨low, high⟩ := range
  omega

theorem valueInRange_written {i : Instr} {s : State} {v : Word} (ranges : ValuesInRange s)
    (written : WrittenValue i s v) : valueInRange v := by
  cases written with
  | immediate => exact valueInRange_immediate _
  | cell => exact ranges.2 _
  | negated => exact valueInRange_negate (ranges.2 _)

theorem valuesInRange_writeReg {s : State} {v : Word} (b : RegIdx) (ranges : ValuesInRange s) (range : valueInRange v) :
    ValuesInRange (s.writeReg b v) := by
  refine ⟨fun r => ?_, ranges.2⟩
  rw [State.readReg_writeReg]
  split
  · exact range
  · exact ranges.1 r

theorem valuesInRange_writeCell {s : State} {v : Word} (a : Nat) (ranges : ValuesInRange s) (range : valueInRange v) :
    ValuesInRange (s.writeCell a v) := by
  refine ⟨ranges.1, fun k => ?_⟩
  rw [State.readCell_writeCell]
  split
  · exact range
  · exact ranges.2 k

theorem valuesInRange_retire {s : State} (b : RegIdx) (ranges : ValuesInRange s) : ValuesInRange (s.retire b) :=
  ranges

/-- Settles O34: an immediate has 21 bits, and the range is closed under copying and negation (R22). -/
theorem valuesStayInRange : Obligations.ValuesStayInRange := by
  intro s t ranges h
  cases stepEffect_of_step h with
  | finish => exact ranges
  | run _ effect =>
    cases effect with
    | fail => exact ranges
    | register value =>
      exact valuesInRange_retire _ (valuesInRange_writeReg _ ranges (valueInRange_written ranges value))
    | cell => exact valuesInRange_retire _ (valuesInRange_writeCell _ ranges (ranges.1 _))
    | record => exact valuesInRange_retire _ ranges

/-- Settles O18: in the range of R22 no value is the least of its width, the one value negation does not negate. -/
theorem negationIsExactOnReachableValues : Obligations.NegationIsExactOnReachableValues := by
  intro b c s ranges below
  refine ⟨_, if_pos below, ?_⟩
  rw [State.readReg_retire, State.readReg_writeReg, if_pos rfl]
  exact toInt_negate (ranges.2 _)

/-! ## The progress -/

theorem stream_and_params_kept {s t : State} (h : step s = .next t) : t.imem = s.imem ∧ t.params = s.params := by
  cases stepEffect_of_step h with
  | finish => exact ⟨rfl, rfl⟩
  | run _ effect =>
    rcases failed_or_retired effect with ⟨e, rfl⟩ | ⟨-, -, -, stream, params⟩
    · exact ⟨rfl, rfl⟩
    · exact ⟨stream, params⟩

/-- Settles O35: a word is fetched before N, so its instruction ends at most at N, or fails before it. -/
theorem progressStaysSound : Obligations.ProgressStaysSound := by
  intro s t sound h
  obtain ⟨running, -⟩ := step_cases h
  cases stepEffect_of_step h with
  | finish atEnd => exact ⟨atEnd.le, atEnd⟩
  | run fetched effect =>
    have inside : s.ip < s.imem.length := ip_lt_of_fetch fetched
    rcases failed_or_retired effect with ⟨e, rfl⟩ | ⟨-, ip, status, stream, -⟩
    · exact ⟨inside.le, inside⟩
    · exact progressSound_of_running (status.trans running) (by rw [ip, stream]; exact inside)

/-- Settles O25: every field update of a step leaves the stream and the parameters as they are (R24, R30). -/
theorem noStepWritesTheStreamOrTheParameters : Obligations.NoStepWritesTheStreamOrTheParameters := by
  intro s t h
  obtain ⟨stream, params⟩ := stream_and_params_kept h
  exact ⟨stream, params, fun k => by rw [stream]⟩

/-- Settles O22: a running state with `ip` in `0..N` closes at N or runs the word it fetches. -/
theorem stepAnswersNextExactlyWhileRunning : Obligations.StepAnswersNextExactlyWhileRunning := by
  refine ⟨fun s sound => ⟨fun ⟨_, h⟩ => (step_cases h).1, fun running => ?_⟩, step_ne_refused⟩
  rcases Nat.eq_or_lt_of_le sound.1 with atEnd | inside
  · exact ⟨_, step_at_end running atEnd⟩
  · rw [step_of_fetch running (List.getElem?_eq_getElem inside)]
    exact exec_answers_next _ s

/-- Settles O21: the three cases of `step` that run no instruction (R29, R79). -/
theorem stepAtEndOfStreamIsDone : Obligations.StepAtEndOfStreamIsDone :=
  ⟨fun _ => step_at_end, fun _ => step_of_done, fun _ _ => step_of_fatal⟩

/-! ## The start of a run -/

theorem wordsOfImage_ne_nil {bytes : List Byte} (h : bytes.length ≠ 0) : wordsOfImage bytes ≠ some [] := by
  match bytes with
  | [] => exact absurd rfl h
  | [_] | [_, _] | [_, _, _] => simp [wordsOfImage]
  | _ :: _ :: _ :: _ :: _ => simp [wordsOfImage]

theorem loadImage_ok {path : Path} {bytes : List Byte} {imem : List InsnWord} (h : loadImage path bytes = .ok imem) :
    0 < imem.length := by
  unfold loadImage at h
  split at h
  · cases h
  · rename_i nonempty
    split at h
    · cases h
    · rename_i ws words
      cases h
      exact List.length_pos_iff.mpr fun none => wordsOfImage_ne_nil nonempty (none ▸ words)

/-- A successful start gives a start state over a stream of at least one word (R107, R126). -/
theorem boot_ok {cfg : Config} {req : ExecuteRequest} {file : Option (List Byte)} {s : State}
    (h : boot cfg req file = .ok s) :
    ∃ imem, 0 < imem.length ∧ s = startState cfg req.dumpStart.toNat req.dumpEnd.toNat imem := by
  unfold boot at h
  split at h
  · split at h
    · cases h
    · split at h
      · cases h
      · rename_i imem loaded
        cases h
        exact ⟨imem, loadImage_ok loaded, rfl⟩
  · cases h

/-- Settles O31: a start state is the state after reset but for the stream and the parameters (R31). -/
theorem resetIsTheStartOfRunState : Obligations.ResetIsTheStartOfRunState := by
  refine ⟨⟨State.readReg_reset, State.readCell_reset, rfl, State.isTouched_reset, rfl⟩, fun cfg req file s h => ?_⟩
  obtain ⟨imem, -, rfl⟩ := boot_ok h
  exact ⟨State.readReg_reset, State.readCell_reset, rfl, State.isTouched_reset, rfl⟩

/-! ## Runs -/

/-- The invariants of a run that started with the stream and the parameters of `start`. -/
structure RunInvariant (start t : State) : Prop where
  memory : MemorySound t
  values : ValuesInRange t
  progress : ProgressSound t
  stream : t.imem = start.imem
  params : t.params = start.params

theorem runInvariant_startState (cfg : Config) (start stop : Nat) (imem : List InsnWord) :
    RunInvariant (startState cfg start stop imem) (startState cfg start stop imem) where
  memory := memorySound_of_mem_eq_nil rfl
  values := valuesInRange_reset
  progress := progressSound_of_running rfl (Nat.zero_le _)
  stream := rfl
  params := rfl

theorem RunInvariant.step {start t u : State} (inv : RunInvariant start t) (h : step t = .next u) :
    RunInvariant start u where
  memory := memoryStaysCanonicalAndInBounds t u inv.memory h
  values := valuesStayInRange t u inv.values h
  progress := progressStaysSound t u inv.progress h
  stream := (stream_and_params_kept h).1.trans inv.stream
  params := (stream_and_params_kept h).2.trans inv.params

theorem RunInvariant.steps {start s t : State} {k : Nat} (inv : RunInvariant start s) (run : Steps k s t) :
    RunInvariant start t := by
  induction run with
  | refl => exact inv
  | tail _ last ih => exact (ih inv).step last

/-- Settles O36: the invariants hold at the start of a run and every step keeps them. -/
theorem bootedRunsKeepTheInvariants : Obligations.BootedRunsKeepTheInvariants := by
  intro cfg req file s t k booted run
  obtain ⟨imem, words, rfl⟩ := boot_ok booted
  obtain ⟨memory, values, progress, stream, params⟩ := (runInvariant_startState ..).steps run
  exact ⟨memory, values, progress, by rw [stream]; exact words, stream, params⟩

end Sys2Proof.Invariants
end

section
/-! PROOFS. What a step writes and reads: the frame, the literal recorder, and runs over two register files. -/

namespace Sys2Proof.Frame

open Sys2Proof.Machine Sys2Proof.Safety

/-! ## What an instruction leaves unchanged -/

theorem opcode_of_written {i : Instr} {s : State} {v : Word} (written : WrittenValue i s v) :
    i.opcode = 6 ∨ i.opcode = 8 ∨ i.opcode = 10 := by
  cases written with
  | immediate op => exact .inl op
  | cell op => exact .inr (.inl op)
  | negated op => exact .inr (.inr op)

theorem register_of_changed {i : Instr} {s t : State} {r : RegIdx} (effect : Effect i s t)
    (changed : t.readReg r ≠ s.readReg r) :
    r = i.register ∧ (i.opcode = 6 ∨ i.opcode = 8 ∨ i.opcode = 10) := by
  cases effect with
  | fail => exact absurd rfl changed
  | register value =>
    refine ⟨by_contra fun other => changed ?_, opcode_of_written value⟩
    rw [State.readReg_retire, State.readReg_writeReg, if_neg other]
  | cell => exact absurd rfl changed
  | record => exact absurd rfl changed

theorem cell_of_changed {i : Instr} {s t : State} {a : Nat} (effect : Effect i s t)
    (changed : t.readCell a ≠ s.readCell a) :
    a = i.operand.toNat ∧ a < s.params.memSize ∧ i.opcode = 25 := by
  cases effect with
  | fail => exact absurd rfl changed
  | register => exact absurd rfl changed
  | cell op below =>
    have same : a = cellIndex i.operand := by_contra fun other => changed (by
      rw [State.readCell_retire, State.readCell_writeCell, if_neg other])
    exact ⟨same, same ▸ below, op⟩
  | record => exact absurd rfl changed

/-- Settles O26: the step is the effect of the decoded word, whose fields are the word's. -/
theorem stepWritesOnlyItsRegisterAndCell : Obligations.StepWritesOnlyItsRegisterAndCell := by
  intro s t w running fetched h
  rw [step_of_fetch running fetched] at h
  have effect : Effect (decode w) s t := effect_of_exec h
  rw [← opcode_decode, ← register_decode, ← operand_decode]
  exact ⟨fun _ => register_of_changed effect, fun _ => cell_of_changed effect⟩

/-! ## The literal recorder (R87) -/

/-- The records hold exactly the values of the registers in `T` (R28). -/
def RecordsAgree (s : State) (records : Records) : Prop :=
  ∀ r, records.lookup r = if s.isTouched r then some (s.readReg r) else none

theorem lookup_cons (k r : RegIdx) (v : Word) (rest : Records) :
    Records.lookup ((k, v) :: rest) r = if k = r then some v else Records.lookup rest r := rfl

/-- The record of an instruction that did not fail keeps the agreement: other registers kept their values. -/
theorem recordsAgree_record {i : Instr} {s t : State} {records : Records} (agree : RecordsAgree s records)
    (effect : Effect i s t) (recorded : ∀ r, t.isTouched r = (s.isTouched r || decide (r = i.register))) :
    RecordsAgree t ((i.register, t.readReg i.register) :: records) := by
  intro r
  rw [lookup_cons, recorded]
  by_cases own : i.register = r
  · simp [own]
  · have kept : t.readReg r = s.readReg r :=
      by_contra fun changed => own (register_of_changed effect changed).1.symm
    simp [own, Ne.symm own, kept, agree r]

theorem recordsAgree_recordStep {s t : State} {records records' : Records} (agree : RecordsAgree s records)
    (h : recordStep s records = some (t, records')) : RecordsAgree t records' := by
  unfold recordStep at h
  split at h
  case h_2 => cases h
  case h_1 u stepped =>
    obtain ⟨running, -⟩ := step_cases stepped
    split at h <;> cases h
    case h_1 w fetched status =>
      cases stepEffect_of_step stepped with
      | finish => cases status
      | run fetched' effect =>
        cases fetched.symm.trans fetched'
        rcases failed_or_retired effect with ⟨e, rfl⟩ | ⟨recorded, -⟩
        · cases status
        · exact recordsAgree_record agree effect recorded
    case h_2 unrecorded =>
      cases stepEffect_of_step stepped with
      | finish => exact agree
      | run fetched effect =>
        rcases failed_or_retired effect with ⟨e, rfl⟩ | ⟨-, -, status, -⟩
        · exact agree
        · exact absurd (status.trans running) (unrecorded _ fetched)

theorem recordsAgree_recordedRun (k : Nat) (s : State) (records : Records) (agree : RecordsAgree s records) :
    RecordsAgree (recordedRun k s records).1 (recordedRun k s records).2 := by
  induction k generalizing s records with
  | zero => exact agree
  | succ k ih =>
    rw [recordedRun]
    split
    · exact ih _ _ (recordsAgree_recordStep agree ‹_›)
    · exact agree

/-- Settles O39: the records agree with `T` and the registers at the start, and every recorded step keeps that. -/
theorem recordedSnapshotIsTheRegisterFileOnT : Obligations.RecordedSnapshotIsTheRegisterFileOnT :=
  recordsAgree_recordedRun

/-! ## One instruction over two register files -/

/-- What a next state shows of an instruction that reads no register: all but the registers, and of those the one that
instruction writes. -/
structure SameWithoutRegisters (i : Instr) (t t' : State) : Prop where
  mem : t'.mem = t.mem
  touched : t'.touched = t.touched
  ip : t'.ip = t.ip
  status : t'.status = t.status
  written : Recognized i.opcode → t.status = .running → t'.readReg i.register = t.readReg i.register

section

variable {i : Instr} {s t t' : State} {other : Vector Word 64}

theorem sameWithoutRegisters_fail (i : Instr) (s : State) (other : Vector Word 64) (e : Error) :
    SameWithoutRegisters i (s.fail e) (State.fail { s with regs := other } e) :=
  ⟨rfl, rfl, rfl, rfl, fun _ running => by cases running⟩

/-- The register written holds the same value in both, whatever the other registers hold. -/
theorem sameWithoutRegisters_write (i : Instr) (s : State) (other : Vector Word 64) (v : Word) :
    SameWithoutRegisters i ((s.writeReg i.register v).retire i.register)
      ((State.writeReg { s with regs := other } i.register v).retire i.register) :=
  ⟨rfl, rfl, rfl, rfl, fun _ _ => by simp⟩

/-- The bounds check reads no register. -/
theorem sameWithoutRegisters_withBounds {access access' : State} (same : SameWithoutRegisters i access access')
    (h : withBounds i s access = .next t) (h' : withBounds i { s with regs := other } access' = .next t') :
    SameWithoutRegisters i t t' := by
  unfold withBounds at h h'
  split at h
  · rw [if_pos ‹_›] at h'
    cases h
    cases h'
    exact same
  · rw [if_neg ‹_›] at h'
    cases h
    cases h'
    exact sameWithoutRegisters_fail i s other _

/-- The policy on unrecognized opcodes reads no register. -/
theorem sameWithoutRegisters_unrecognized (unknown : ¬ Recognized i.opcode) (h : unrecognized i s = .next t)
    (h' : unrecognized i { s with regs := other } = .next t') : SameWithoutRegisters i t t' := by
  unfold unrecognized at h h'
  split at h
  · rw [if_pos ‹_›] at h'
    cases h
    cases h'
    exact sameWithoutRegisters_fail i s other _
  · rw [if_neg ‹_›] at h'
    cases h
    cases h'
    exact ⟨rfl, rfl, rfl, rfl, fun known => absurd known unknown⟩

theorem sameWithoutRegisters_exec (noStore : i.opcode ≠ 25) (h : exec i s = .next t)
    (h' : exec i { s with regs := other } = .next t') : SameWithoutRegisters i t t' := by
  cases i
  case loadConst b c =>
    cases h
    cases h'
    exact sameWithoutRegisters_write (.loadConst b c) s other _
  case readMem b c =>
    exact sameWithoutRegisters_withBounds (sameWithoutRegisters_write (.readMem b c) s other _) h h'
  case writeMem => exact absurd rfl noStore
  case negMem b c =>
    exact sameWithoutRegisters_withBounds (sameWithoutRegisters_write (.negMem b c) s other _) h h'
  all_goals exact sameWithoutRegisters_unrecognized (by simp [Instr.opcode]) h h'

end

/-- Settles O27: neither the checks nor the values written by the other opcodes depend on a register. -/
theorem onlyWriteMemReadsARegister : Obligations.OnlyWriteMemReadsARegister := by
  intro i s t t' other noStore _ h h'
  obtain ⟨mem, touched, ip, status, written⟩ := sameWithoutRegisters_exec noStore h h'
  exact ⟨mem, touched, ip, status, written⟩

end Sys2Proof.Frame
end

section
/-! PROOFS. The cell width is unobservable: the executor over XLEN-bit cells stands for the one over unbounded
integers, and the machine is the executor over 32-bit cells. -/

namespace Sys2Proof.CellWidth

open Sys2Proof.Machine Sys2Proof.Safety Sys2Proof.Invariants

/-! ## The outcomes of a step over any kind of cell -/

section

variable {α : Type} {K : CellKind α} {p : RunParams} {imem : List InsnWord} {s : WideState α}

theorem wideStep_at_end (running : s.status = .running) (h : s.ip = imem.length) :
    WideState.step K p imem s = { s with status := .done } := by
  simp only [WideState.step, running, if_pos h]

theorem wideStep_of_fetch {w : InsnWord} (running : s.status = .running) (h : imem[s.ip]? = some w) :
    WideState.step K p imem s = WideState.run K p w s := by
  have inside : s.ip < imem.length := (List.getElem?_eq_some_iff.mp h).1
  simp only [WideState.step, running, if_neg inside.ne, h]

theorem wideStep_past_end (beyond : s.ip ≠ imem.length) (h : imem[s.ip]? = none) :
    WideState.step K p imem s = s := by
  simp only [WideState.step, if_neg beyond, h]
  split <;> rfl

theorem wideStep_of_not_running (stopped : s.status ≠ .running) : WideState.step K p imem s = s := by
  unfold WideState.step
  split
  · exact absurd ‹_› stopped
  · rfl

theorem run_unrecognized {w : InsnWord} (unknown : ¬ Recognized (decodeFields w).a) :
    WideState.run K p w s =
      if p.strictOpcodes then { s with status := .fatal (.unknownInstruction s.ip w (decodeFields w).a) }
      else s.retire (decodeFields w).b := by
  obtain ⟨not6, not8, not25, not10⟩ := by simpa only [Recognized, not_or] using unknown
  simp only [WideState.run, if_neg not6, if_neg not8, if_neg not25, if_neg not10]

theorem runFrom_eq_iterate (K : CellKind α) (p : RunParams) (imem : List InsnWord) (k : Nat) :
    WideState.runFrom K p imem k = (WideState.step K p imem)^[k] (WideState.start K) := by
  induction k with
  | zero => rfl
  | succ k ih => rw [Function.iterate_succ_apply', WideState.runFrom, ih]

end

/-! ## XLEN-bit cells and integers -/

section

variable {xlen : Nat}

/-- A cell holds the integer `z`, and `z` is in the range of R22. -/
structure Holds (v : BitVec xlen) (z : Int) : Prop where
  value : v.toInt = z
  low : -(2 ^ 21 - 1) ≤ z
  high : z ≤ 2 ^ 21 - 1

theorem holds_zero : Holds (CellKind.bits xlen).zero CellKind.integers.zero :=
  ⟨BitVec.toInt_zero, by decide, by decide⟩

theorem holds_ofOperand (wide : 22 ≤ xlen) (c : Operand) :
    Holds ((CellKind.bits xlen).ofOperand c) (CellKind.integers.ofOperand c) := by
  have small : c.toNat < 2 ^ 21 := c.isLt
  refine ⟨toInt_setWidth_operand wide c, ?_, ?_⟩
  all_goals
    simp only [CellKind.integers]
    omega

/-- The negation of a cell kind is two's complement negation (R11). -/
theorem bits_neg (v : BitVec xlen) : (CellKind.bits xlen).neg v = -v := rfl

theorem holds_neg (wide : 22 ≤ xlen) {v : BitVec xlen} {z : Int} (h : Holds v z) :
    Holds ((CellKind.bits xlen).neg v) (CellKind.integers.neg z) := by
  obtain ⟨rfl, low, high⟩ := h
  rw [bits_neg]
  refine ⟨toInt_neg_of_inRange wide low, ?_, ?_⟩
  all_goals
    simp only [CellKind.integers]
    omega

/-- The state over XLEN-bit cells stands for the state over integers. -/
structure Represents (n : WideState (BitVec xlen)) (e : WideState Int) : Prop where
  status : n.status = e.status
  ip : n.ip = e.ip
  touched : n.touched = e.touched
  registers : ∀ r, Holds (n.x r) (e.x r)
  cells : ∀ a, Holds (n.M a) (e.M a)

variable {n : WideState (BitVec xlen)} {e : WideState Int}

theorem represents_start : Represents (WideState.start (CellKind.bits xlen)) (WideState.start CellKind.integers) :=
  ⟨rfl, rfl, rfl, fun _ => holds_zero, fun _ => holds_zero⟩

theorem Represents.withStatus (h : Represents n e) {status status' : Status} (same : status = status') :
    Represents { n with status := status } { e with status := status' } :=
  ⟨same, h.ip, h.touched, h.registers, h.cells⟩

theorem Represents.retire (h : Represents n e) (b : RegIdx) : Represents (n.retire b) (e.retire b) where
  status := h.status
  ip := congrArg (· + 1) h.ip
  touched := by simp only [WideState.retire, h.touched]
  registers := h.registers
  cells := h.cells

theorem holds_update {ι : Type} [DecidableEq ι] {f : ι → BitVec xlen} {g : ι → Int} {v : BitVec xlen} {z : Int}
    (kept : ∀ k, Holds (f k) (g k)) (written : Holds v z) (j k : ι) :
    Holds (Function.update f j v k) (Function.update g j z k) := by
  by_cases same : k = j
  · rw [same, Function.update_self, Function.update_self]
    exact written
  · rw [Function.update_of_ne same, Function.update_of_ne same]
    exact kept k

theorem Represents.updateRegister (h : Represents n e) {v : BitVec xlen} {z : Int} (written : Holds v z) (b : RegIdx) :
    Represents { n with x := Function.update n.x b v } { e with x := Function.update e.x b z } :=
  ⟨h.status, h.ip, h.touched, holds_update h.registers written b, h.cells⟩

theorem Represents.updateCell (h : Represents n e) {v : BitVec xlen} {z : Int} (written : Holds v z) (a : Nat) :
    Represents { n with M := Function.update n.M a v } { e with M := Function.update e.M a z } :=
  ⟨h.status, h.ip, h.touched, h.registers, holds_update h.cells written a⟩

theorem Represents.run (wide : 22 ≤ xlen) (h : Represents n e) (p : RunParams) (w : InsnWord) :
    Represents (WideState.run (CellKind.bits xlen) p w n) (WideState.run CellKind.integers p w e) := by
  simp only [WideState.run]
  split
  · exact (h.updateRegister (holds_ofOperand wide _) _).retire _
  split
  · split
    · exact (h.updateRegister (h.cells _) _).retire _
    · exact h.withStatus (by rw [h.ip])
  split
  · split
    · exact (h.updateCell (h.registers _) _).retire _
    · exact h.withStatus (by rw [h.ip])
  split
  · split
    · exact (h.updateRegister (holds_neg wide (h.cells _)) _).retire _
    · exact h.withStatus (by rw [h.ip])
  split
  · exact h.withStatus (by rw [h.ip])
  · exact h.retire _

theorem Represents.step (wide : 22 ≤ xlen) (h : Represents n e) (p : RunParams) (imem : List InsnWord) :
    Represents (WideState.step (CellKind.bits xlen) p imem n) (WideState.step CellKind.integers p imem e) := by
  by_cases running : e.status = .running
  · by_cases atEnd : e.ip = imem.length
    · rw [wideStep_at_end (h.status.trans running) (h.ip.trans atEnd), wideStep_at_end running atEnd]
      exact h.withStatus rfl
    · match fetched : imem[e.ip]? with
      | some w =>
        rw [wideStep_of_fetch (h.status.trans running) (h.ip ▸ fetched), wideStep_of_fetch running fetched]
        exact h.run wide p w
      | none =>
        rw [wideStep_past_end (h.ip ▸ atEnd) (h.ip ▸ fetched), wideStep_past_end atEnd fetched]
        exact h
  · rw [wideStep_of_not_running (h.status ▸ running), wideStep_of_not_running running]
    exact h

theorem represents_runFrom (wide : 22 ≤ xlen) (p : RunParams) (imem : List InsnWord) (k : Nat) :
    Represents (WideState.runFrom (CellKind.bits xlen) p imem k) (WideState.runFrom CellKind.integers p imem k) := by
  induction k with
  | zero => exact represents_start
  | succ k ih => exact ih.step wide p imem

theorem Represents.observe (h : Represents n e) (p : RunParams) :
    WideState.observe (CellKind.bits xlen) p n = WideState.observe CellKind.integers p e := by
  have registers : ∀ r, (CellKind.bits xlen).value (n.x r) = CellKind.integers.value (e.x r) :=
    fun r => (h.registers r).value
  have cells : ∀ a, (CellKind.bits xlen).value (n.M a) = CellKind.integers.value (e.M a) :=
    fun a => (h.cells a).value
  simp only [WideState.observe, h.status, h.touched, registers, cells]

end

/-- Settles O45: XLEN-bit cells hold the integers exactly, since no value leaves the range of R22. -/
theorem cellWidthIsUnobservable : Obligations.CellWidthIsUnobservable := by
  intro xlen p imem k wide
  have h := represents_runFrom wide p imem k
  exact ⟨h.status, h.ip, h.touched, fun r => (h.registers r).value, fun a => (h.cells a).value, h.observe p⟩

/-! ## The machine is the executor over 32-bit cells -/

/-- The machine's state as the executor over 32-bit cells has it. -/
def view (s : State) : WideState Word :=
  { x := s.readReg, M := s.readCell, ip := s.ip, touched := s.isTouched, status := s.status }

@[simp] theorem view_x (s : State) : (view s).x = s.readReg := rfl

@[simp] theorem view_M (s : State) : (view s).M = s.readCell := rfl

@[simp] theorem view_ip (s : State) : (view s).ip = s.ip := rfl

@[simp] theorem bits_ofOperand_eq_immediate (c : Operand) : (CellKind.bits 32).ofOperand c = immediate c := rfl

@[simp] theorem bits_neg_eq_negate (v : Word) : (CellKind.bits 32).neg v = negate v := rfl

@[simp] theorem view_writeReg (s : State) (b : RegIdx) (v : Word) :
    view (s.writeReg b v) = { view s with x := Function.update s.readReg b v } := by
  have registers : (s.writeReg b v).readReg = Function.update s.readReg b v := by
    funext r
    rw [State.readReg_writeReg, Function.update_apply]
  rw [view, registers]
  rfl

@[simp] theorem view_writeCell (s : State) (a : Nat) (v : Word) :
    view (s.writeCell a v) = { view s with M := Function.update s.readCell a v } := by
  have cells : (s.writeCell a v).readCell = Function.update s.readCell a v := by
    funext k
    rw [State.readCell_writeCell, Function.update_apply]
  rw [view, cells]
  rfl

@[simp] theorem view_retire (s : State) (b : RegIdx) : view (s.retire b) = (view s).retire b := by
  have touched : (s.retire b).isTouched = fun r => s.isTouched r || decide (r = b) :=
    funext (State.isTouched_retire s b)
  rw [view, touched]
  rfl

@[simp] theorem view_fail (s : State) (e : Error) : view (s.fail e) = { view s with status := .fatal e } := rfl

@[simp] theorem view_finish (s : State) : view s.finish = { view s with status := .done } := rfl

@[simp] theorem view_start (cfg : Config) (start stop : Nat) (imem : List InsnWord) :
    view (startState cfg start stop imem) = WideState.start (CellKind.bits 32) := by
  have registers : (startState cfg start stop imem).readReg = fun _ => 0 := funext State.readReg_reset
  have cells : (startState cfg start stop imem).readCell = fun _ => 0 := funext State.readCell_reset
  have touched : (startState cfg start stop imem).isTouched = fun _ => false := funext State.isTouched_reset
  rw [view, registers, cells, touched]
  rfl

/-- One instruction over 32-bit cells is the machine's meaning of the decoded word. -/
theorem view_exec {w : InsnWord} {s t : State} (h : exec (decode w) s = .next t) :
    WideState.run (CellKind.bits 32) s.params w (view s) = view t := by
  rcases exec_cases (decode w) s with
    ⟨op, above, e⟩ | ⟨op, strict, e⟩ | ⟨op, e⟩ | ⟨op, below, e⟩ | ⟨op, below, e⟩ | ⟨op, below, e⟩ | ⟨op, lax, e⟩
  all_goals
    rw [e] at h
    cases h
    simp only [opcode_decode, operand_decode, register_decode, encode_decode, cellIndex] at *
  · have above := Nat.not_lt.mpr above
    rcases op with op | op | op
    all_goals simp [WideState.run, op, above]
  · simp [run_unrecognized op, strict]
  · simp [WideState.run, op]
  · simp [WideState.run, op, below]
  · simp [WideState.run, op, below]
  · simp [WideState.run, op, below]
  · simp [run_unrecognized op, lax]

/-- A step of the machine is a step of the executor over 32-bit cells. -/
theorem view_step {s t : State} (h : step s = .next t) :
    WideState.step (CellKind.bits 32) s.params s.imem (view s) = view t := by
  obtain ⟨running, ⟨atEnd, rfl⟩ | ⟨w, -, fetched, ran⟩⟩ := step_cases h
  · exact wideStep_at_end running atEnd
  · exact (wideStep_of_fetch running fetched).trans (view_exec ran)

/-- Where the machine answers no next state, the executor over 32-bit cells stays as it is. -/
theorem view_stays {s : State} (h : ∀ t, step s ≠ .next t) :
    WideState.step (CellKind.bits 32) s.params s.imem (view s) = view s := by
  by_cases running : s.status = .running
  · have beyond : s.ip ≠ s.imem.length := fun atEnd => h _ (step_at_end running atEnd)
    match fetched : s.fetch with
    | some w =>
      obtain ⟨t, ran⟩ := exec_answers_next (decode w) s
      exact absurd ((step_of_fetch running fetched).trans ran) (h t)
    | none => exact wideStep_past_end beyond fetched
  · exact wideStep_of_not_running running

theorem runFor_of_next {s t : State} (k : Nat) (h : step s = .next t) : runFor (k + 1) s = runFor k t := by
  obtain ⟨running, -⟩ := step_cases h
  simp only [runFor, running, h]

theorem runFor_of_stuck {s : State} (k : Nat) (h : ∀ t, step s ≠ .next t) : runFor k s = s := by
  match k with
  | 0 => rfl
  | k + 1 =>
    rw [runFor]
    split
    · split
      · exact absurd ‹_› (h _)
      · rfl
    · rfl

/-- A run of the machine is a run of the executor over 32-bit cells with its stream and parameters. -/
theorem view_runFor (k : Nat) (s : State) :
    view (runFor k s) = (WideState.step (CellKind.bits 32) s.params s.imem)^[k] (view s) := by
  induction k generalizing s with
  | zero => rfl
  | succ k ih =>
    by_cases next : ∃ t, step s = .next t
    · obtain ⟨t, h⟩ := next
      obtain ⟨stream, params⟩ := stream_and_params_kept h
      rw [runFor_of_next k h, ih, stream, params, Function.iterate_succ_apply, view_step h]
    · have stuck : ∀ t, step s ≠ .next t := not_exists.mp next
      rw [runFor_of_stuck _ stuck, Function.iterate_fixed (view_stays stuck)]

theorem runFor_params (k : Nat) (s : State) : (runFor k s).params = s.params := by
  induction k generalizing s with
  | zero => rfl
  | succ k ih =>
    by_cases next : ∃ t, step s = .next t
    · obtain ⟨t, h⟩ := next
      rw [runFor_of_next k h, ih, (stream_and_params_kept h).2]
    · rw [runFor_of_stuck _ (not_exists.mp next)]

/-- What a state shows is what the executor over 32-bit cells shows of it. -/
theorem observe_eq_view (s : State) : s.observe = WideState.observe (CellKind.bits 32) s.params (view s) := rfl

/-- Settles O46: the machine is the executor over 32-bit cells, which stands for the one over integers. -/
theorem machineObservesTheIntegerRun : Obligations.MachineObservesTheIntegerRun := by
  intro cfg start stop imem k s
  have run : view (runFor k s) = WideState.runFrom (CellKind.bits 32) s.params s.imem k := by
    rw [view_runFor, view_start, runFrom_eq_iterate]
  rw [observe_eq_view, runFor_params, run]
  exact (represents_runFrom (by decide) s.params s.imem k).observe s.params

end Sys2Proof.CellWidth
end

section
/-! PROOFS. The binary file and the words it holds (R33, R61). -/

namespace Sys2Proof

/-! ## One word and its four bytes -/

/-- A byte below a word's other bits is added to them. -/
theorem toNat_append_byte {n : Nat} (high : BitVec n) (low : Byte) :
    (high ++ low).toNat = 2 ^ 8 * high.toNat + low.toNat := by
  rw [BitVec.toNat_append, ← Nat.shiftLeft_add_eq_or_of_lt low.isLt, Nat.shiftLeft_eq, Nat.mul_comm]

theorem toNat_wordOfBytes (b0 b1 b2 b3 : Byte) :
    (wordOfBytes b0 b1 b2 b3).toNat = b0.toNat + 2 ^ 8 * b1.toNat + 2 ^ 16 * b2.toNat + 2 ^ 24 * b3.toNat := by
  rw [wordOfBytes, toNat_append_byte, toNat_append_byte, toNat_append_byte]
  ring

theorem wordOfBytes_bytesOfWord (w : InsnWord) :
    wordOfBytes (w.extractLsb' 0 8) (w.extractLsb' 8 8) (w.extractLsb' 16 8) (w.extractLsb' 24 8) = w := by
  have upper : w.extractLsb' 24 8 ++ w.extractLsb' 16 8 = w.extractLsb' 16 16 :=
    BitVec.extractLsb'_append_extractLsb'_eq_extractLsb' rfl
  have most : w.extractLsb' 16 16 ++ w.extractLsb' 8 8 = w.extractLsb' 8 24 :=
    BitVec.extractLsb'_append_extractLsb'_eq_extractLsb' rfl
  have all : w.extractLsb' 8 24 ++ w.extractLsb' 0 8 = w.extractLsb' 0 32 :=
    BitVec.extractLsb'_append_extractLsb'_eq_extractLsb' rfl
  rw [wordOfBytes, upper, most, all, BitVec.extractLsb'_eq_self]

/-! ## A file and its words -/

/-- What a file of whole words is: empty, or the four bytes of its first word and the file of the others (R33). -/
theorem wordsOfImage_cases {bytes : List Byte} {ws : List InsnWord} (h : wordsOfImage bytes = some ws) :
    (bytes = [] ∧ ws = []) ∨
    ∃ b0 b1 b2 b3 rest later, bytes = b0 :: b1 :: b2 :: b3 :: rest ∧ wordsOfImage rest = some later ∧
      ws = wordOfBytes b0 b1 b2 b3 :: later := by
  unfold wordsOfImage at h
  split at h
  · cases h
    exact .inl ⟨rfl, rfl⟩
  · obtain ⟨later, read, rfl⟩ := Option.map_eq_some_iff.mp h
    exact .inr ⟨_, _, _, _, _, later, rfl, read, rfl⟩
  · cases h

theorem length_of_wordsOfImage {bytes : List Byte} {ws : List InsnWord} (h : wordsOfImage bytes = some ws) :
    bytes.length = 4 * ws.length := by
  induction ws generalizing bytes with
  | nil =>
    obtain ⟨rfl, -⟩ | ⟨_, _, _, _, _, _, -, -, ⟨⟩⟩ := wordsOfImage_cases h
    rfl
  | cons w ws ih =>
    obtain ⟨-, ⟨⟩⟩ | ⟨_, _, _, _, _, _, rfl, read, ⟨⟩⟩ := wordsOfImage_cases h
    simp only [List.length_cons, ih read]
    ring

/-- Word `k` of a file is made of its bytes `4k` to `4k + 3` (R33). -/
theorem getD_of_wordsOfImage {bytes : List Byte} {ws : List InsnWord} (h : wordsOfImage bytes = some ws) {k : Nat}
    (inside : k < ws.length) :
    ws.getD k 0 = wordOfBytes (bytes.getD (4 * k) 0) (bytes.getD (4 * k + 1) 0) (bytes.getD (4 * k + 2) 0)
      (bytes.getD (4 * k + 3) 0) := by
  induction ws generalizing bytes k with
  | nil => exact absurd inside (Nat.not_lt_zero k)
  | cons w ws ih =>
    obtain ⟨-, ⟨⟩⟩ | ⟨_, _, _, _, _, _, rfl, read, ⟨⟩⟩ := wordsOfImage_cases h
    cases k with
    | zero => rfl
    | succ k => exact ih read (Nat.lt_of_succ_lt_succ inside)

theorem exists_wordsOfImage {bytes : List Byte} (whole : bytes.length % 4 = 0) :
    ∃ ws, wordsOfImage bytes = some ws := by
  match bytes with
  | [] => exact ⟨[], rfl⟩
  | [_] | [_, _] | [_, _, _] => cases whole
  | b0 :: b1 :: b2 :: b3 :: rest =>
    obtain ⟨ws, read⟩ := exists_wordsOfImage (bytes := rest) ((Nat.add_mod_right _ 4).symm.trans whole)
    exact ⟨_, congrArg (Option.map (wordOfBytes b0 b1 b2 b3 :: ·)) read⟩

/-- Settles O8: a file of whole words has words, one to four bytes, each the sum of its bytes by place. -/
theorem binaryFileHoldsLittleEndianWords : Obligations.BinaryFileHoldsLittleEndianWords := by
  intro bytes _ whole
  obtain ⟨ws, read⟩ := exists_wordsOfImage whole
  refine ⟨ws, read, ?_, fun k inside => ?_⟩
  · rw [length_of_wordsOfImage read, Nat.mul_div_cancel_left _ (by decide)]
  · rw [getD_of_wordsOfImage read inside, toNat_wordOfBytes]

theorem imageOfWords_eq_flatMap (ws : List InsnWord) : imageOfWords ws = ws.flatMap bytesOfWord := by
  induction ws with
  | nil => rfl
  | cons w ws ih => rw [imageOfWords, List.flatMap_cons, ih]

theorem wordsOfImage_imageOfWords (ws : List InsnWord) : wordsOfImage (imageOfWords ws) = some ws := by
  induction ws with
  | nil => rfl
  | cons w ws ih =>
    rw [imageOfWords, bytesOfWord]
    simp only [List.cons_append, List.nil_append, wordsOfImage, ih, wordOfBytes_bytesOfWord, Option.map_some]

/-- Settles O9: a word's four bytes joined again are the word (R33, R61), and a file is read four bytes at a time. -/
theorem imageOfWordsReadsBack : Obligations.ImageOfWordsReadsBack :=
  ⟨fun _ => rfl, imageOfWords_eq_flatMap, wordsOfImage_imageOfWords⟩

end Sys2Proof
end

section
/-! PROOFS. The start of a run: what a file must be and a request must hold (R107 to R109, R126). -/

namespace Sys2Proof.Start

open Sys2Proof.Machine

theorem loadImage_eq_ok_iff {path : Path} {bytes : List Byte} {imem : List InsnWord} :
    loadImage path bytes = .ok imem ↔ bytes.length ≠ 0 ∧ wordsOfImage bytes = some imem := by
  unfold loadImage
  split
  · simp [*]
  · split <;> simp [*]

/-- A file loads exactly where it is not empty and holds whole words (R107, R108). -/
theorem exists_loadImage_iff (path : Path) (bytes : List Byte) :
    (∃ imem, loadImage path bytes = .ok imem) ↔ WellFormed.binary bytes := by
  constructor
  · rintro ⟨imem, loaded⟩
    obtain ⟨nonempty, read⟩ := loadImage_eq_ok_iff.mp loaded
    exact ⟨nonempty, by rw [length_of_wordsOfImage read]; exact Nat.mul_mod_right 4 _⟩
  · rintro ⟨nonempty, whole⟩
    obtain ⟨imem, read⟩ := exists_wordsOfImage whole
    exact ⟨imem, loadImage_eq_ok_iff.mpr ⟨nonempty, read⟩⟩

/-- A run starts exactly where the dump range is good and the file is there and loads (R126). -/
theorem boot_eq_ok_iff {cfg : Config} {req : ExecuteRequest} {file : Option (List Byte)} {s : State} :
    boot cfg req file = .ok s ↔
      WellFormed.dumpRange cfg.memSize req.dumpStart req.dumpEnd ∧
      ∃ bytes imem, file = some bytes ∧ loadImage req.binary bytes = .ok imem ∧
        s = startState cfg req.dumpStart.toNat req.dumpEnd.toNat imem := by
  unfold boot
  split
  next range =>
    rw [and_iff_right range]
    cases file with
    | none => simp
    | some bytes =>
      cases loaded : loadImage req.binary bytes with
      | error e => simp [loaded]
      | ok imem => simp [loaded, eq_comm]
  next bad => simp [bad]

/-- Settles O42: the checks of the start, and a file's words exist exactly where its length is a multiple of 4. -/
theorem runStartsExactlyOnWellFormedInputs : Obligations.RunStartsExactlyOnWellFormedInputs := by
  intro cfg req file
  constructor
  · rintro ⟨s, booted⟩
    obtain ⟨range, bytes, imem, present, loaded, -⟩ := boot_eq_ok_iff.mp booted
    exact ⟨range, bytes, present, (exists_loadImage_iff _ _).mp ⟨imem, loaded⟩⟩
  · rintro ⟨range, bytes, present, good⟩
    obtain ⟨imem, loaded⟩ := (exists_loadImage_iff req.binary bytes).mpr good
    exact ⟨_, boot_eq_ok_iff.mpr ⟨range, bytes, imem, present, loaded, rfl⟩⟩

end Sys2Proof.Start
end

section
/-! PROOFS. What the four recognized instructions answer inside the memory, and a value stored and read again (R132). -/

namespace Sys2Proof.Transfer

open Sys2Proof.Machine Sys2Proof.Invariants

/-! ## The answers inside the memory -/

theorem exec_loadConst (b : RegIdx) (c : Operand) (s : State) :
    exec (.loadConst b c) s = .next ((s.writeReg b (immediate c)).retire b) := rfl

section
variable {s : State} {c : Operand} (b : RegIdx) (below : cellIndex c < s.params.memSize)
include below

theorem exec_readMem_of_lt :
    exec (.readMem b c) s = .next ((s.writeReg b (s.readCell (cellIndex c))).retire b) :=
  if_pos below

theorem exec_writeMem_of_lt :
    exec (.writeMem b c) s = .next ((s.writeCell (cellIndex c) (s.readReg b)).retire b) :=
  if_pos below

theorem exec_negMem_of_lt :
    exec (.negMem b c) s = .next ((s.writeReg b (negate (s.readCell (cellIndex c)))).retire b) :=
  if_pos below

end

/-! ## A stored constant -/

theorem toNat_immediate (c : Operand) : (immediate c).toNat = c.toNat :=
  BitVec.toNat_setWidth_of_le (by decide)

theorem toInt_negate_immediate (c : Operand) : (negate (immediate c)).toInt = -(c.toNat : Int) := by
  rw [toInt_negate (valueInRange_immediate c)]
  exact congrArg Neg.neg (toInt_setWidth_operand (by decide) c)

/-- The state after LOAD_CONST r,c and WRITE_MEM r,a, the cell `a` being below MEM_SIZE. -/
def storeConst (s : State) (r : RegIdx) (c a : Operand) : State :=
  let loaded := (s.writeReg r (immediate c)).retire r
  (loaded.writeCell (cellIndex a) (loaded.readReg r)).retire r

theorem readCell_storeConst (s : State) (r : RegIdx) (c a : Operand) :
    (storeConst s r c a).readCell (cellIndex a) = immediate c := by
  simp [storeConst]

/-- Settles O29: the cell reads the constant, and READ_MEM and NEG_MEM write what the cell reads. -/
theorem readAfterWriteSeesTheValueWritten : Obligations.ReadAfterWriteSeesTheValueWritten := by
  intro s r q c a below
  have stored : (storeConst s r c a).readCell (cellIndex a) = immediate c := readCell_storeConst s r c a
  refine ⟨_, storeConst s r c a, _, _, exec_loadConst r c s, exec_writeMem_of_lt r below, ?_,
    exec_readMem_of_lt q below, ?_, exec_negMem_of_lt q below, ?_⟩
  · exact (congrArg BitVec.toNat stored).trans (toNat_immediate c)
  · rw [State.readReg_retire, State.readReg_writeReg, if_pos rfl, stored, toNat_immediate]
  · rw [State.readReg_retire, State.readReg_writeReg, if_pos rfl, stored, toInt_negate_immediate]

end Sys2Proof.Transfer
end

section
/-! PROOFS. The result snapshot: its entries, its keys, and which states show it (R48, R92, R94). -/

namespace Sys2Proof.Result

open Sys2Proof.Machine

/-! ## Entries computed from their keys -/

theorem mem_entries {κ β : Type} (value : κ → β) (keys : List κ) (k : κ) (v : β) :
    (k, v) ∈ keys.map (fun k => (k, value k)) ↔ k ∈ keys ∧ v = value k := by
  rw [List.mem_map]
  constructor
  · rintro ⟨_, listed, ⟨⟩⟩
    exact ⟨listed, rfl⟩
  · rintro ⟨listed, rfl⟩
    exact ⟨k, listed, rfl⟩

theorem map_fst_entries {κ β : Type} (value : κ → β) (keys : List κ) :
    (keys.map fun k => (k, value k)).map Prod.fst = keys := by
  rw [List.map_map]
  exact List.map_id keys

/-! ## The registers of the result -/

theorem mem_touchedRegisters (s : State) (r : RegIdx) :
    r ∈ (List.finRange 64).filter s.isTouched ↔ s.isTouched r = true := by
  rw [List.mem_filter, and_iff_right (List.mem_finRange r)]

theorem mem_snapshot_registers (s : State) (r : RegIdx) (v : Int) :
    (r, v) ∈ s.snapshot.registers ↔ s.isTouched r = true ∧ v = (s.readReg r).toInt :=
  (mem_entries _ _ r v).trans (and_congr_left' (mem_touchedRegisters s r))

theorem nodup_snapshot_registers (s : State) : (s.snapshot.registers.map Prod.fst).Nodup := by
  rw [State.snapshot, map_fst_entries]
  exact (List.nodup_finRange 64).filter _

/-! ## The dump -/

/-- The dump has the cells `start <= a < end`, so none where `end <= start` (R48). -/
theorem mem_dumpAddresses (start stop a : Nat) : a ∈ dumpAddresses start stop ↔ start ≤ a ∧ a < stop := by
  rw [dumpAddresses, List.mem_range'_1]
  omega

theorem mem_snapshot_memory (s : State) (a : Nat) (v : Int) :
    (a, v) ∈ s.snapshot.memory ↔
      (s.params.dumpStart ≤ a ∧ a < s.params.dumpEnd) ∧ v = (s.readCell a).toInt :=
  (mem_entries _ _ a v).trans (and_congr_left' (mem_dumpAddresses _ _ a))

theorem nodup_snapshot_memory (s : State) : (s.snapshot.memory.map Prod.fst).Nodup := by
  rw [State.snapshot, map_fst_entries]
  exact List.nodup_range' 1

/-! ## What a state shows -/

theorem observe_of_done {s : State} (h : s.status = .done) : s.observe = some (.result s.snapshot) := by
  simp only [State.observe, h]

theorem observe_of_fatal {s : State} {e : Error} (h : s.status = .fatal e) : s.observe = some (.fatal e) := by
  simp only [State.observe, h]

theorem observe_of_running {s : State} (h : s.status = .running) : s.observe = none := by
  simp only [State.observe, h]

/-- Settles O40: a done state shows its snapshot, whose entries are computed from distinct keys. -/
theorem snapshotShowsTouchedRegistersAndTheDump : Obligations.SnapshotShowsTouchedRegistersAndTheDump := by
  refine fun s => ⟨fun done => ?_, fun _ => observe_of_fatal, observe_of_running⟩
  exact ⟨s.snapshot, observe_of_done done, mem_snapshot_registers s, mem_snapshot_memory s,
    nodup_snapshot_registers s, nodup_snapshot_memory s⟩

end Sys2Proof.Result
end

section
/-! PROOFS. The codec: the field packer and unpacker are inverses (R50 to R54), and the opcode table and the decoder
agree on every word (R57, R58). -/

namespace Sys2Proof.Codec

open Sys2Proof.Machine Sys2Proof.Safety

/-! ## The fields in integer terms (R50, R52) -/

theorem toNat_decodeFields_a (w : InsnWord) : (decodeFields w).a.toNat = w.toNat % 32 :=
  BitVec.extractLsb'_toNat 0 5 w

theorem val_decodeFields_b (w : InsnWord) : (decodeFields w).b.val = w.toNat / 2 ^ 5 % 64 := by
  rw [← Nat.shiftRight_eq_div_pow]
  exact BitVec.extractLsb'_toNat 5 6 w

/-- The operand field reaches the top of the word, so nothing is cut off above it. -/
theorem toNat_decodeFields_c (w : InsnWord) : (decodeFields w).c.toNat = w.toNat / 2 ^ 11 := by
  have field : (decodeFields w).c.toNat = w.toNat >>> 11 % 2 ^ 21 := BitVec.extractLsb'_toNat 11 21 w
  have whole : w.toNat < 2 ^ 32 := w.isLt
  rw [field, Nat.shiftRight_eq_div_pow]
  omega

theorem testBit_decodeFields_b (w : InsnWord) {k : Nat} (inside : k < 6) :
    (decodeFields w).b.val.testBit k = w.getLsbD (5 + k) := by
  have bit : (w.extractLsb' 5 6).getLsbD k = (decide (k < 6) && w.getLsbD (5 + k)) :=
    BitVec.getLsbD_extractLsb' 5 6 w k
  rwa [decide_eq_true inside, Bool.true_and] at bit

/-- Settles O1: each field is the bits it is cut from, and their value is a quotient and remainder of the word's. -/
theorem decoderReadsTheThreeBitFields : Obligations.DecoderReadsTheThreeBitFields := by
  refine fun w => ⟨toNat_decodeFields_a w, val_decodeFields_b w, toNat_decodeFields_c w, fun k inside => ?_,
    fun k => testBit_decodeFields_b w, fun k inside => ?_⟩
  · simp [decodeFields, inside]
  · simp [decodeFields, inside]

/-- Bits below others are added to them. -/
theorem toNat_append {m n : Nat} (high : BitVec m) (low : BitVec n) :
    (high ++ low).toNat = 2 ^ n * high.toNat + low.toNat := by
  rw [BitVec.toNat_append, ← Nat.shiftLeft_add_eq_or_of_lt low.isLt, Nat.shiftLeft_eq, Nat.mul_comm]

theorem toNat_encodeFields (f : Fields) :
    (encodeFields f).toNat = f.a.toNat + 32 * f.b.val + 2048 * f.c.toNat := by
  have register : (BitVec.ofFin f.b : BitVec 6).toNat = f.b.val := rfl
  rw [encodeFields, toNat_append, toNat_append, register]
  ring

/-- Settles O2: the three fields lie side by side in the word. -/
theorem encoderPacksTheThreeFields : Obligations.EncoderPacksTheThreeFields :=
  toNat_encodeFields

/-! ## The two codecs are inverses (R54) -/

@[simp] theorem encodeFields_decodeFields (w : InsnWord) : encodeFields (decodeFields w) = w := by
  have whole : encodeFields (decode w).fields = w := encode_decode w
  rwa [decode, fields_ofFields] at whole

theorem ext_fields {f g : Fields} (a : f.a.toNat = g.a.toNat) (b : f.b.val = g.b.val)
    (c : f.c.toNat = g.c.toNat) : f = g := by
  cases f
  cases g
  rw [Fields.mk.injEq]
  exact ⟨BitVec.eq_of_toNat_eq a, Fin.ext b, BitVec.eq_of_toNat_eq c⟩

@[simp] theorem decodeFields_encodeFields (f : Fields) : decodeFields (encodeFields f) = f := by
  have a : f.a.toNat < 32 := f.a.isLt
  have b : f.b.val < 64 := f.b.isLt
  apply ext_fields
  · rw [toNat_decodeFields_a, toNat_encodeFields]
    omega
  · rw [val_decodeFields_b, toNat_encodeFields]
    omega
  · rw [toNat_decodeFields_c, toNat_encodeFields]
    omega

/-- Settles O3: each of the two maps undoes the other. -/
theorem fieldCodecIsABijection : Obligations.FieldCodecIsABijection :=
  ⟨decodeFields_encodeFields, encodeFields_decodeFields,
    Function.bijective_iff_has_inverse.mpr ⟨encodeFields, encodeFields_decodeFields, decodeFields_encodeFields⟩⟩

/-! ## The opcode map of every instruction (R57) -/

theorem opcodeMap (i : Instr) : Laws.OpcodeMap.Statement i :=
  match i with
  | .loadConst b c => Laws.OpcodeMap.loadConst b c
  | .readMem b c => Laws.OpcodeMap.readMem b c
  | .writeMem b c => Laws.OpcodeMap.writeMem b c
  | .negMem b c => Laws.OpcodeMap.negMem b c
  | .unk0 b c => Laws.OpcodeMap.unk0 b c
  | .unk1 b c => Laws.OpcodeMap.unk1 b c
  | .unk2 b c => Laws.OpcodeMap.unk2 b c
  | .unk3 b c => Laws.OpcodeMap.unk3 b c
  | .unk4 b c => Laws.OpcodeMap.unk4 b c
  | .unk5 b c => Laws.OpcodeMap.unk5 b c
  | .unk7 b c => Laws.OpcodeMap.unk7 b c
  | .unk9 b c => Laws.OpcodeMap.unk9 b c
  | .unk11 b c => Laws.OpcodeMap.unk11 b c
  | .unk12 b c => Laws.OpcodeMap.unk12 b c
  | .unk13 b c => Laws.OpcodeMap.unk13 b c
  | .unk14 b c => Laws.OpcodeMap.unk14 b c
  | .unk15 b c => Laws.OpcodeMap.unk15 b c
  | .unk16 b c => Laws.OpcodeMap.unk16 b c
  | .unk17 b c => Laws.OpcodeMap.unk17 b c
  | .unk18 b c => Laws.OpcodeMap.unk18 b c
  | .unk19 b c => Laws.OpcodeMap.unk19 b c
  | .unk20 b c => Laws.OpcodeMap.unk20 b c
  | .unk21 b c => Laws.OpcodeMap.unk21 b c
  | .unk22 b c => Laws.OpcodeMap.unk22 b c
  | .unk23 b c => Laws.OpcodeMap.unk23 b c
  | .unk24 b c => Laws.OpcodeMap.unk24 b c
  | .unk26 b c => Laws.OpcodeMap.unk26 b c
  | .unk27 b c => Laws.OpcodeMap.unk27 b c
  | .unk28 b c => Laws.OpcodeMap.unk28 b c
  | .unk29 b c => Laws.OpcodeMap.unk29 b c
  | .unk30 b c => Laws.OpcodeMap.unk30 b c
  | .unk31 b c => Laws.OpcodeMap.unk31 b c

@[simp] theorem ofFields_fields (i : Instr) : Instr.ofFields i.fields = i :=
  (opcodeMap i).1

@[simp] theorem decode_encode (i : Instr) : decode (encode i) = i := by
  rw [decode, encode, decodeFields_encodeFields, ofFields_fields]

theorem decodeBytes_encodeBytes (i : Instr) (rest : List Byte) :
    decodeBytes (encodeBytes i ++ rest) = .ok (i, rest) := by
  rw [encodeBytes, bytesOfWord]
  simp only [List.cons_append, List.nil_append, decodeBytes, wordOfBytes_bytesOfWord, decode_encode]

/-- Settles O4: the fields lose nothing of a word, the opcode map nothing of an instruction, and four bytes joined
again are the word. -/
theorem decodeAndEncodeOfInstructionsAgree : Obligations.DecodeAndEncodeOfInstructionsAgree :=
  ⟨decode_encode, encode_decode, decodeBytes_encodeBytes⟩

/-! ## The opcode table (R57) -/

/-- The opcode as the whole word has it. -/
theorem and_opcodeMask (w : InsnWord) : w &&& 0x1F = (decodeFields w).a.setWidth 32 := by
  apply BitVec.eq_of_toNat_eq
  rw [BitVec.toNat_and, BitVec.toNat_setWidth_of_le (by decide), toNat_decodeFields_a]
  exact Nat.and_two_pow_sub_one_eq_mod w.toNat 5

/-- The low five bits select the opcode and no more. -/
theorem opcode_eq_of_and_opcodeMask {w : InsnWord} {a : Opcode} (h : w &&& 0x1F = a.setWidth 32) :
    (decodeFields w).a = a := by
  rw [and_opcodeMask] at h
  have kept : ((decodeFields w).a.setWidth 32).setWidth 5 = (a.setWidth 32).setWidth 5 := congrArg _ h
  rwa [BitVec.setWidth_setWidth_of_le _ (by decide), BitVec.setWidth_setWidth_of_le _ (by decide),
    BitVec.setWidth_eq, BitVec.setWidth_eq] at kept

theorem covers_iff {row : OpcodeRow} (listed : row ∈ opcodeTable) (w : InsnWord) :
    row.covers w = true ↔ row.pattern = (decodeFields w).a.setWidth 32 := by
  have masks : ∀ row ∈ opcodeTable, row.mask = 0x1F := by decide
  rw [OpcodeRow.covers, masks row listed, and_opcodeMask, beq_iff_eq, eq_comm]

/-- No two rows have the same pattern. -/
theorem row_eq_of_pattern_eq {row other : OpcodeRow} (listed : row ∈ opcodeTable) (listed' : other ∈ opcodeTable)
    (same : row.pattern = other.pattern) : row = other := by
  have distinct : (opcodeTable.map OpcodeRow.pattern).Nodup := by decide
  exact List.inj_on_of_nodup_map distinct listed listed' same

/-- Settles O5: the decoded instruction's own row covers the word, and every row that does has that row's pattern. -/
theorem opcodeTableDecidesEveryWord : Obligations.OpcodeTableDecidesEveryWord := by
  refine ⟨rfl, fun w => ?_⟩
  obtain ⟨-, row, listed, name, bits, -, make⟩ := opcodeMap (decode w)
  rw [opcode_decode] at bits
  rw [register_decode, operand_decode] at make
  refine ⟨row, listed, (covers_iff listed w).mpr bits, fun other listed' covers => ?_, make.symm, name.symm⟩
  exact row_eq_of_pattern_eq listed' listed (((covers_iff listed' w).mp covers).trans bits.symm)

/-! ## The opcode selects the operation (R57) -/

theorem decode_of_opcode {w : InsnWord} {a : Opcode} (h : (decodeFields w).a = a) :
    decode w = Instr.ofFields ⟨a, (decodeFields w).b, (decodeFields w).c⟩ := by
  rw [← h, decode]

/-- Instructions of the same opcode have the same row, so the same mnemonic. -/
theorem mnemonic_eq_of_opcode_eq {i j : Instr} (same : i.opcode = j.opcode) : i.mnemonic = j.mnemonic := by
  obtain ⟨-, row, listed, name, bits, -⟩ := opcodeMap i
  obtain ⟨-, row', listed', name', bits', -⟩ := opcodeMap j
  have one : row = row' := row_eq_of_pattern_eq listed listed' (by rw [bits, bits', same])
  rw [← name, ← name', one]

/-- An unrecognized opcode is one of the 28. -/
theorem exists_unrecognized {a : Opcode} (unknown : ¬ Recognized a) : ∃ make, (a, make) ∈ unrecognizedOpcodes := by
  have listed : ∀ a : Opcode, ¬ Recognized a → a ∈ unrecognizedOpcodes.map Prod.fst := by decide
  obtain ⟨⟨_, make⟩, mem, rfl⟩ := List.mem_map.mp (listed a unknown)
  exact ⟨make, mem⟩

/-- The mnemonic of an unrecognized opcode is its number after `UNK` (D6). -/
theorem unrecognized_named {a : Opcode} {make : RegIdx → Operand → Instr} (listed : (a, make) ∈ unrecognizedOpcodes)
    (b : RegIdx) (c : Operand) :
    Instr.ofFields ⟨a, b, c⟩ = make b c ∧ (make b c).mnemonic = "UNK" ++ String.ofList (decimal a.toNat) := by
  have all : ∀ e ∈ unrecognizedOpcodes, Instr.ofFields ⟨e.1, b, c⟩ = e.2 b c ∧
      (e.2 b c).mnemonic = "UNK" ++ String.ofList (decimal e.1.toNat) := by
    refine List.forall_iff_forall_mem.mp ?_
    and_intros <;> rfl
  exact all (a, make) listed

/-- Settles O6: the masked word gives the opcode, and the opcode the instruction but for its two other fields. -/
theorem opcodeFieldAloneSelectsTheOperation : Obligations.OpcodeFieldAloneSelectsTheOperation := by
  have named : ∀ (a : Opcode) (w : InsnWord), w &&& 0x1F = a.setWidth 32 →
      decode w = Instr.ofFields ⟨a, (decodeFields w).b, (decodeFields w).c⟩ :=
    fun a w h => decode_of_opcode (opcode_eq_of_and_opcodeMask h)
  refine ⟨fun w => ⟨fun h => ?_, fun h => ?_, fun h => ?_, fun h => ?_, fun unknown => ?_⟩, fun w w' h => ?_⟩
  · rw [named 6 w h]; rfl
  · rw [named 8 w h]; rfl
  · rw [named 25 w h]; rfl
  · rw [named 10 w h]; rfl
  · obtain ⟨make, listed⟩ := exists_unrecognized unknown
    obtain ⟨selected, name⟩ := unrecognized_named listed (decodeFields w).b (decodeFields w).c
    have decoded : decode w = make (decodeFields w).b (decodeFields w).c := selected
    exact ⟨make, listed, decoded, by rw [decoded, name]⟩
  · rw [and_opcodeMask w'] at h
    refine mnemonic_eq_of_opcode_eq ?_
    rw [opcode_decode, opcode_decode, opcode_eq_of_and_opcodeMask h]

/-- Settles O7: the seven words evaluated. -/
theorem knownWordsDecode : Obligations.KnownWordsDecode := by
  refine ⟨?_, ?_, ?_, ?_, ?_, ?_, ?_⟩
  all_goals decide

/-! ## The effect of a word -/

theorem exec_of_unrecognized {i : Instr} {s : State} (unknown : ¬ Recognized i.opcode)
    (lax : s.params.strictOpcodes = false) : exec i s = .next (s.retire i.register) := by
  rcases exec_cases i s with
    ⟨access, -⟩ | ⟨-, strict, -⟩ | ⟨op, -⟩ | ⟨op, -⟩ | ⟨op, -⟩ | ⟨op, -⟩ | ⟨-, -, retires⟩
  · exact absurd (.inr access) unknown
  · exact absurd (strict.symm.trans lax) (by decide)
  · exact absurd (.inl op) unknown
  · exact absurd (.inr (.inl op)) unknown
  · exact absurd (.inr (.inr (.inl op))) unknown
  · exact absurd (.inr (.inr (.inr op))) unknown
  · exact retires

/-- Settles O16: an unrecognized opcode records its register, and its record is all it does (R101). -/
theorem unrecognizedOpcodesIgnoreTheirOperand : Obligations.UnrecognizedOpcodesIgnoreTheirOperand := by
  intro a b c c' s unknown lax
  have retires : ∀ c, exec (Instr.ofFields ⟨a, b, c⟩) s = .next (s.retire b) := by
    intro c
    have fields : (Instr.ofFields ⟨a, b, c⟩).fields = ⟨a, b, c⟩ := fields_ofFields _
    have opcode : (Instr.ofFields ⟨a, b, c⟩).opcode = a := congrArg Fields.a fields
    have register : (Instr.ofFields ⟨a, b, c⟩).register = b := congrArg Fields.b fields
    rw [exec_of_unrecognized (by rwa [opcode]) lax, register]
  rw [retires c, retires c']

/-- Settles O19: every word decodes (R58), and every instruction answers a next state. -/
theorem everyWordExecutes : Obligations.EveryWordExecutes :=
  fun w s => exec_answers_next (decode w) s

end Sys2Proof.Codec
end

section
/-! PROOFS. Hexadecimal tokens: what a token's digits are worth (R67, R68), and that the block's own hexadecimal
renderings read back (R71). -/

namespace Sys2Proof.Tokens

open Sys2Proof.Machine

/-! ## Digits -/

theorem hexValueFrom_cons_of_digit {c : CodePoint} {d : Nat} (h : hexDigit c = some d) (acc : Nat)
    (cs : List CodePoint) : hexValueFrom acc (c :: cs) = hexValueFrom (16 * acc + d) cs := by
  rw [hexValueFrom, h]

theorem hexValueFrom_cons_of_not_digit {c : CodePoint} (h : hexDigit c = none) (acc : Nat) (cs : List CodePoint) :
    hexValueFrom acc (c :: cs) = none := by
  rw [hexValueFrom, h]

/-- Characters have a value exactly where each is a digit. -/
theorem hexValueFrom_eq_none_iff (acc : Nat) (cs : List CodePoint) :
    hexValueFrom acc cs = none ↔ ∃ c ∈ cs, hexDigit c = none := by
  induction cs generalizing acc with
  | nil => simp [hexValueFrom]
  | cons c cs ih =>
    cases digit : hexDigit c with
    | none => simp [hexValueFrom_cons_of_not_digit digit, digit]
    | some d => simp [hexValueFrom_cons_of_digit digit, digit, ih]

theorem hexValueFrom_append (acc : Nat) (cs ds : List CodePoint) :
    hexValueFrom acc (cs ++ ds) = (hexValueFrom acc cs).bind fun v => hexValueFrom v ds := by
  induction cs generalizing acc with
  | nil => rfl
  | cons c cs ih =>
    rw [List.cons_append]
    cases digit : hexDigit c with
    | none => simp [hexValueFrom_cons_of_not_digit digit]
    | some d => simp [hexValueFrom_cons_of_digit digit, ih]

/-- The value read so far is one more digit, above the ones to come. -/
theorem hexValueFrom_of_digits {digits : List CodePoint} {values : List Nat} (acc : Nat)
    (h : digits.map hexDigit = values.map some) :
    hexValueFrom acc digits = some (Nat.ofDigits 16 (values.reverse ++ [acc])) := by
  induction digits generalizing values acc with
  | nil =>
    obtain rfl : values = [] := List.map_eq_nil_iff.mp h.symm
    simp [hexValueFrom]
  | cons c cs ih =>
    obtain ⟨v, vs, rfl⟩ : ∃ v vs, values = v :: vs := by
      refine List.exists_cons_of_ne_nil fun empty => ?_
      simp [empty] at h
    obtain ⟨head, tail⟩ := List.cons_eq_cons.mp h
    have carried : Nat.ofDigits 16 [16 * acc + v] = Nat.ofDigits 16 [v, acc] := by
      simp only [Nat.ofDigits_cons, Nat.ofDigits_nil]
      ring
    rw [hexValueFrom_cons_of_digit head, ih _ tail, List.reverse_cons, List.append_assoc, Nat.ofDigits_append,
      Nat.ofDigits_append, carried, List.singleton_append]

/-! ## Tokens -/

theorem parseToken_of_short {token : List CodePoint} (idx : Nat) (short : token.length ≤ 2) :
    parseToken idx token = .error (.noDigits idx) := by
  rw [parseToken, List.drop_eq_nil_of_le short]

theorem parseToken_of_value {digits : List CodePoint} {v : Nat} (idx : Nat) (p q : CodePoint) (nonempty : digits ≠ [])
    (value : hexValueFrom 0 digits = some v) : parseToken idx (p :: q :: digits) = .ok v := by
  obtain ⟨d, ds, rfl⟩ := List.exists_cons_of_ne_nil nonempty
  simp only [parseToken, List.drop_succ_cons, List.drop_zero, value]

theorem parseToken_of_not_hex {digits : List CodePoint} (idx : Nat) (p q : CodePoint) (nonempty : digits ≠ [])
    (bad : hexValueFrom 0 digits = none) : parseToken idx (p :: q :: digits) = .error (.notHex idx) := by
  obtain ⟨d, ds, rfl⟩ := List.exists_cons_of_ne_nil nonempty
  simp only [parseToken, List.drop_succ_cons, List.drop_zero, bad]

/-- Settles O53: what is left after two characters is nothing, or has a character that is no digit, or is digits. -/
theorem tokenIsAPrefixAndHexDigits : Obligations.TokenIsAPrefixAndHexDigits := by
  refine fun idx => ⟨fun _ => parseToken_of_short idx, fun p q digits bad => ?_,
    fun p q digits values nonempty h => ?_⟩
  · have nonempty : digits ≠ [] := List.ne_nil_of_mem bad.choose_spec.1
    exact parseToken_of_not_hex idx p q nonempty ((hexValueFrom_eq_none_iff 0 digits).mpr bad)
  · refine parseToken_of_value idx p q nonempty ?_
    rw [hexValueFrom_of_digits 0 h, Nat.ofDigits_append]
    simp

/-! ## Hexadecimal renderings (R71) -/

/-- The code points of a text. -/
def codes (text : Text) : List CodePoint :=
  text.map Char.toNat

@[simp] theorem codes_append (t u : Text) : codes (t ++ u) = codes t ++ codes u :=
  List.map_append

theorem hexDigit_digitChar {d : Nat} (small : d < 16) : hexDigit d.digitChar.toNat = some d := by
  have all : ∀ d < 16, hexDigit (Nat.digitChar d).toNat = some d := by decide
  exact all d small

theorem hexValueFrom_digitChar (acc : Nat) {d : Nat} (small : d < 16) :
    hexValueFrom acc (codes [d.digitChar]) = some (16 * acc + d) :=
  hexValueFrom_cons_of_digit (hexDigit_digitChar small) acc []

/-- The digits of `n / 16` come before that of `n % 16`. -/
theorem hexValueFrom_toDigits (n : Nat) : hexValueFrom 0 (codes (Nat.toDigits 16 n)) = some n := by
  induction n using Nat.strongRecOn with
  | ind n ih =>
    by_cases small : n < 16
    · rw [Nat.toDigits_of_lt_base small, hexValueFrom_digitChar 0 small, Nat.mul_zero, Nat.zero_add]
    · rw [Nat.toDigits_of_base_le (by decide) (Nat.le_of_not_lt small), codes_append, hexValueFrom_append,
        ih (n / 16) (by omega), Option.bind_some, hexValueFrom_digitChar _ (Nat.mod_lt n (by decide)), Nat.div_add_mod]

theorem hexValueFrom_zeros (k : Nat) : hexValueFrom 0 (codes (List.replicate k '0')) = some 0 := by
  induction k with
  | zero => rfl
  | succ k ih => exact (hexValueFrom_cons_of_digit rfl 0 _).trans ih

theorem hexValueFrom_paddedHex (width n : Nat) : hexValueFrom 0 (codes (paddedHex width n)) = some n := by
  rw [paddedHex, codes_append, hexValueFrom_append, hexValueFrom_zeros, Option.bind_some, hexValueFrom_toDigits]

theorem paddedHex_ne_nil (width n : Nat) : paddedHex width n ≠ [] :=
  List.append_ne_nil_of_right_ne_nil _ Nat.toDigits_ne_nil

theorem length_paddedHex {width n : Nat} (some_width : 0 < width) (fits : n < 16 ^ width) :
    (paddedHex width n).length = width := by
  have digits : (Nat.toDigits 16 n).length ≤ width := (Nat.length_toDigits_le_iff (by decide) some_width).mpr fits
  rw [paddedHex, List.length_append, List.length_replicate, Nat.sub_add_cancel digits]

theorem parseToken_listingToken (idx width n : Nat) : parseToken idx (codes (listingToken width n)) = .ok n :=
  parseToken_of_value idx _ _ (List.map_eq_nil_iff.not.mpr (paddedHex_ne_nil width n)) (hexValueFrom_paddedHex width n)

/-- A word in the log is a token of at least 8 digits. -/
theorem wordHex_eq_listingToken (w : InsnWord) : wordHex w = listingToken 8 w.toNat := rfl

/-- Settles O56: a word has at most 8 digits, and zeros before them change no value. -/
theorem renderedWordsReadBack : Obligations.RenderedWordsReadBack := by
  refine fun w idx => ⟨?_, rfl, parseToken_listingToken idx 8 w.toNat⟩
  rw [wordHex, List.length_append, length_paddedHex (by decide) w.isLt]
  rfl

end Sys2Proof.Tokens
end

section
/-! PROOFS. The assembler: each outcome of a line (R63 to R70), and of the lines of a listing (R62, R71, R72). -/

namespace Sys2Proof.Assembler

open Sys2Proof.Machine Sys2Proof.Codec

/-! ## Three tokens -/

theorem parseTokens_of_count {ts : List (List CodePoint)} (count : ts.length ≠ 3) :
    parseTokens ts = .error (.tokenCount ts.length) := by
  match ts with
  | [_, _, _] => exact absurd rfl count
  | [] | [_] | [_, _] | _ :: _ :: _ :: _ :: _ => rfl

section
variable {t0 t1 t2 : List CodePoint} {v0 v1 v2 : Nat} {r : ParseReason}

theorem parseTokens_of_values (h0 : parseToken 0 t0 = .ok v0) (h1 : parseToken 1 t1 = .ok v1)
    (h2 : parseToken 2 t2 = .ok v2) :
    parseTokens [t0, t1, t2] = .ok { opcode := v0, register := v1, operand := v2 } := by
  simp only [parseTokens, h0, h1, h2]

theorem parseTokens_of_error0 (h0 : parseToken 0 t0 = .error r) : parseTokens [t0, t1, t2] = .error r := by
  simp only [parseTokens, h0]

theorem parseTokens_of_error1 (h0 : parseToken 0 t0 = .ok v0) (h1 : parseToken 1 t1 = .error r) :
    parseTokens [t0, t1, t2] = .error r := by
  simp only [parseTokens, h0, h1]

theorem parseTokens_of_error2 (h0 : parseToken 0 t0 = .ok v0) (h1 : parseToken 1 t1 = .ok v1)
    (h2 : parseToken 2 t2 = .error r) : parseTokens [t0, t1, t2] = .error r := by
  simp only [parseTokens, h0, h1, h2]

end

/-! ## Packing (R69) -/

theorem packFields_of_wellFormed {f : RawFields} (policy : OversizePolicy) (fits : f.wellFormed) :
    packFields policy f = .ok (encodeFields (RawFields.masked f)) := by
  simp only [packFields, (firstOversize_eq_none_iff f).mpr fits]

theorem packFields_mask (f : RawFields) : packFields .mask f = .ok (encodeFields (RawFields.masked f)) := rfl

theorem packFields_reject {f : RawFields} {bad : FieldName × Nat} (h : f.firstOversize = some bad) :
    packFields .reject f = .error bad := by
  simp only [packFields, h]

theorem toNat_encodeFields_masked (f : RawFields) :
    (encodeFields (RawFields.masked f)).toNat =
      f.opcode % 2 ^ 5 + 32 * (f.register % 2 ^ 6) + 2048 * (f.operand % 2 ^ 21) := by
  rw [toNat_encodeFields, RawFields.masked, BitVec.toNat_ofNat, BitVec.toNat_ofNat]
  rfl

/-- A triple in range loses nothing to the masks. -/
theorem toNat_encodeFields_of_wellFormed {f : RawFields} (fits : f.wellFormed) :
    (encodeFields (RawFields.masked f)).toNat = f.opcode + 32 * f.register + 2048 * f.operand := by
  obtain ⟨opcode, register, operand⟩ := fits
  rw [toNat_encodeFields_masked, Nat.mod_eq_of_lt opcode, Nat.mod_eq_of_lt register, Nat.mod_eq_of_lt operand]

/-! ## The outcomes of one line -/

theorem ne_nil_of_parsed {ts : List (List CodePoint)} {f : RawFields} (parsed : parseTokens ts = .ok f) : ts ≠ [] := by
  rintro rfl
  cases parsed

section
variable {raw : List Byte} {line : List CodePoint} {policy : OversizePolicy} {n : Nat}

theorem assembleLine_of_invalid (invalid : decodeUtf8 raw = none) :
    assembleLine policy n raw = .error (.parseError n raw .invalidUtf8) := by
  rw [assembleLine, invalid]

variable (valid : decodeUtf8 raw = some line)
include valid

theorem assembleLine_of_blank (blank : tokens line = []) : assembleLine policy n raw = .ok none := by
  simp only [assembleLine, valid, blank]

theorem assembleLine_of_parse_error {r : ParseReason} (nonblank : tokens line ≠ [])
    (parsed : parseTokens (tokens line) = .error r) : assembleLine policy n raw = .error (.parseError n raw r) := by
  obtain ⟨t, ts, cut⟩ := List.exists_cons_of_ne_nil nonblank
  rw [cut] at parsed
  simp only [assembleLine, valid, cut, parsed]

/-- A line whose tokens parse has the outcome of packing their values. -/
theorem assembleLine_of_field_error {f : RawFields} {field : FieldName} {v : Nat}
    (parsed : parseTokens (tokens line) = .ok f) (packed : packFields policy f = .error (field, v)) :
    assembleLine policy n raw = .error (.fieldRange n raw field v) := by
  obtain ⟨t, ts, cut⟩ := List.exists_cons_of_ne_nil (ne_nil_of_parsed parsed)
  rw [cut] at parsed
  simp only [assembleLine, valid, cut, parsed, packed]

theorem assembleLine_of_word {f : RawFields} {w : InsnWord} (parsed : parseTokens (tokens line) = .ok f)
    (packed : packFields policy f = .ok w) : assembleLine policy n raw = .ok (some w) := by
  obtain ⟨t, ts, cut⟩ := List.exists_cons_of_ne_nil (ne_nil_of_parsed parsed)
  rw [cut] at parsed
  simp only [assembleLine, valid, cut, parsed, packed]

end

/-- Settles O52: the token count is checked before any token. -/
theorem lineWithoutThreeTokensIsAParseError : Obligations.LineWithoutThreeTokensIsAParseError :=
  ⟨fun _ _ _ _ valid nonblank count => assembleLine_of_parse_error valid nonblank (parseTokens_of_count count),
    fun _ _ _ _ _ _ => parseTokens_of_values⟩

/-- Settles O54: the first oversize field decides under reject, the masks under mask. -/
theorem oversizeValuesAreRejectedOrMasked : Obligations.OversizeValuesAreRejectedOrMasked := by
  intro n raw line t0 t1 t2 v0 v1 v2 valid cut h0 h1 h2
  have parsed : parseTokens (tokens line) = .ok ⟨v0, v1, v2⟩ := cut ▸ parseTokens_of_values h0 h1 h2
  have rejected : ∀ field v, RawFields.firstOversize ⟨v0, v1, v2⟩ = some (field, v) →
      assembleLine .reject n raw = .error (.fieldRange n raw field v) :=
    fun _ _ oversize => assembleLine_of_field_error valid parsed (packFields_reject oversize)
  refine ⟨fun fit0 fit1 fit2 => ?_, fun large => rejected _ _ ?_, fun fit0 large => rejected _ _ ?_,
    fun fit0 fit1 large => rejected _ _ ?_, ?_⟩
  · have fits : RawFields.wellFormed ⟨v0, v1, v2⟩ := ⟨fit0, fit1, fit2⟩
    exact ⟨_, assembleLine_of_word valid parsed (packFields_of_wellFormed _ fits),
      toNat_encodeFields_of_wellFormed fits⟩
  · exact if_pos large
  · rw [RawFields.firstOversize, if_neg (Nat.not_le.mpr fit0), if_pos large]
  · rw [RawFields.firstOversize, if_neg (Nat.not_le.mpr fit0), if_neg (Nat.not_le.mpr fit1), if_pos large]
  · exact ⟨_, assembleLine_of_word valid parsed (packFields_mask _), toNat_encodeFields_masked _⟩

/-- Settles O55: UTF-8 is checked first, then the tokens in their order; packing reads the three values only. -/
theorem lineErrorsNameTheLineAndItsText : Obligations.LineErrorsNameTheLineAndItsText := by
  refine fun policy n raw => ⟨assembleLine_of_invalid, fun line t0 t1 t2 valid cut => ?_⟩
  have failed : ∀ r, parseTokens [t0, t1, t2] = .error r → assembleLine policy n raw = .error (.parseError n raw r) :=
    fun r parsed => assembleLine_of_parse_error valid (by simp [cut]) (by rwa [cut])
  refine ⟨fun r h0 => failed r (parseTokens_of_error0 h0), fun v0 r h0 h1 => failed r (parseTokens_of_error1 h0 h1),
    fun v0 v1 r h0 h1 h2 => failed r (parseTokens_of_error2 h0 h1 h2), fun v0 v1 v2 h0 h1 h2 fit0 fit1 fit2 => ?_⟩
  have parsed : parseTokens (tokens line) = .ok ⟨v0, v1, v2⟩ := cut ▸ parseTokens_of_values h0 h1 h2
  have fits : RawFields.wellFormed ⟨v0, v1, v2⟩ := ⟨fit0, fit1, fit2⟩
  exact ⟨_, assembleLine_of_word valid parsed (packFields_of_wellFormed policy fits),
    toNat_encodeFields_of_wellFormed fits⟩

/-! ## Blank lines (R64) -/

/-- Bytes below 0x80 are their own code points. -/
theorem decodeUtf8_of_ascii {raw : List Byte} (ascii : ∀ x ∈ raw, x.toNat < 0x80) :
    decodeUtf8 raw = some (raw.map BitVec.toNat) := by
  induction raw with
  | nil => rfl
  | cons x raw ih =>
    obtain ⟨first, later⟩ := List.forall_mem_cons.mp ascii
    have ih : decodeUtf8From 0 0 0 raw = some (raw.map BitVec.toNat) := ih later
    rw [decodeUtf8, decodeUtf8From, if_pos rfl, if_pos first, ih, Option.map_some, List.map_cons]

theorem tokens_cons_of_isSpace {c : CodePoint} (space : isSpace c = true) (cs : List CodePoint) :
    tokens (c :: cs) = tokens cs := by
  rw [tokens, tokensFrom, if_pos space, if_pos rfl, tokens]

theorem tokens_of_blank {line : List CodePoint} (blank : ∀ c ∈ line, isSpace c = true) : tokens line = [] := by
  induction line with
  | nil => rfl
  | cons c cs ih =>
    obtain ⟨first, later⟩ := List.forall_mem_cons.mp blank
    rw [tokens_cons_of_isSpace first, ih later]

/-- Settles O51: the five whitespace bytes are ASCII, and whitespace makes no token. -/
theorem blankLinesAreSkipped : Obligations.BlankLinesAreSkipped := by
  intro policy n raw blank
  have space : ∀ x ∈ raw, x.toNat < 0x80 ∧ isSpace x.toNat = true := by
    intro x mem
    rcases blank x mem with rfl | rfl | rfl | rfl | rfl
    all_goals decide
  refine assembleLine_of_blank (decodeUtf8_of_ascii fun x mem => (space x mem).1) (tokens_of_blank fun c mem => ?_)
  obtain ⟨x, listed, rfl⟩ := List.mem_map.mp mem
  exact (space x listed).2

/-! ## The lines of a listing -/

/-- Line `k + 1` from number `n` on is line `k` from the next number on. -/
theorem lineNumber_succ (k n : Nat) : k + 1 + n = k + (n + 1) :=
  Nat.succ_add_eq_add_succ k n

section
variable {raw : List Byte} {policy : OversizePolicy} {n : Nat}

theorem assembleLines_cons_of_error {e : Error} (failed : assembleLine policy n raw = .error e)
    (rest : List (List Byte)) : assembleLines policy n (raw :: rest) = .error e := by
  rw [assembleLines, failed]

/-- A line that assembles adds its word, where it has one, before the words of the lines after it. -/
theorem assembleLines_cons_of_ok {o : Option InsnWord} (assembled : assembleLine policy n raw = .ok o)
    (rest : List (List Byte)) :
    assembleLines policy n (raw :: rest) =
      (assembleLines policy (n + 1) rest).map fun later => (o.map (n, ·)).toList ++ later := by
  rw [assembleLines, assembled]
  cases o with
  | none => cases assembleLines policy (n + 1) rest <;> rfl
  | some w => cases assembleLines policy (n + 1) rest <;> rfl

end

/-- The first of the lines from number `n` on that fails, fails with `e` (R72). -/
def FirstFailure (policy : OversizePolicy) (n : Nat) (lines : List (List Byte)) (e : Error) : Prop :=
  ∃ k raw, lines[k]? = some raw ∧ assembleLine policy (k + n) raw = .error e ∧
    ∀ j earlier, j < k → lines[j]? = some earlier → ∃ o, assembleLine policy (j + n) earlier = .ok o

section
variable {raw : List Byte} {policy : OversizePolicy} {n : Nat}

theorem not_firstFailure_nil (e : Error) : ¬ FirstFailure policy n [] e := by
  rintro ⟨k, raw, present, -⟩
  cases present

theorem firstFailure_cons_of_error {e' : Error} (failed : assembleLine policy n raw = .error e')
    (rest : List (List Byte)) (e : Error) : FirstFailure policy n (raw :: rest) e ↔ e' = e := by
  constructor
  · rintro ⟨k, last, present, fails, earlier⟩
    match k with
    | 0 =>
      obtain rfl : raw = last := Option.some.inj present
      rw [Nat.zero_add, failed] at fails
      exact Except.error.inj fails
    | k + 1 =>
      obtain ⟨o, assembled⟩ := earlier 0 raw k.succ_pos rfl
      rw [Nat.zero_add, failed] at assembled
      cases assembled
  · rintro rfl
    exact ⟨0, raw, rfl, by rwa [Nat.zero_add], fun j _ before => absurd before j.not_lt_zero⟩

theorem firstFailure_cons_of_ok {o : Option InsnWord} (assembled : assembleLine policy n raw = .ok o)
    (rest : List (List Byte)) (e : Error) :
    FirstFailure policy n (raw :: rest) e ↔ FirstFailure policy (n + 1) rest e := by
  constructor
  · rintro ⟨k, last, present, fails, earlier⟩
    match k with
    | 0 =>
      obtain rfl : raw = last := Option.some.inj present
      rw [Nat.zero_add, assembled] at fails
      cases fails
    | k + 1 =>
      refine ⟨k, last, present, lineNumber_succ k n ▸ fails, fun j before inside there => ?_⟩
      exact lineNumber_succ j n ▸ earlier (j + 1) before (Nat.succ_lt_succ inside) there
  · rintro ⟨k, last, present, fails, earlier⟩
    refine ⟨k + 1, last, present, lineNumber_succ k n ▸ fails, fun j before inside there => ?_⟩
    match j with
    | 0 =>
      obtain rfl : raw = before := Option.some.inj there
      exact ⟨o, by rwa [Nat.zero_add]⟩
    | j + 1 => exact lineNumber_succ j n ▸ earlier j before (Nat.lt_of_succ_lt_succ inside) there

end

theorem assembleLines_eq_error_iff (policy : OversizePolicy) (n : Nat) (lines : List (List Byte)) (e : Error) :
    assembleLines policy n lines = .error e ↔ FirstFailure policy n lines e := by
  induction lines generalizing n with
  | nil => simp [assembleLines, not_firstFailure_nil]
  | cons raw rest ih =>
    cases line : assembleLine policy n raw with
    | error e' =>
      rw [assembleLines_cons_of_error line, firstFailure_cons_of_error line, Except.error.injEq]
    | ok o =>
      rw [assembleLines_cons_of_ok line, firstFailure_cons_of_ok line, ← ih]
      cases assembleLines policy (n + 1) rest <;> simp [Except.map]

theorem assemble_eq_error_iff (policy : OversizePolicy) (listing : List Byte) (e : Error) :
    assemble policy listing = .error e ↔ assembleLines policy 1 (splitLines listing) = .error e := by
  rw [assemble]
  split
  next failed => rw [failed, Except.error.injEq, Except.error.injEq]
  next assembled => simp [assembled]

/-- Settles O49: an assembly fails as its lines do, and they are examined in order. -/
theorem firstFailingLineEndsTheAssembly : Obligations.FirstFailingLineEndsTheAssembly :=
  fun policy listing e =>
    (assemble_eq_error_iff policy listing e).trans (assembleLines_eq_error_iff policy 1 (splitLines listing) e)

/-! ## The words of a listing (R62, R71) -/

/-- A line that is UTF-8 and not blank (R64). -/
def hasToken (raw : List Byte) : Bool :=
  (decodeUtf8 raw).any fun line => !(tokens line).isEmpty

/-- A line that assembles has a word exactly where it has a token. -/
theorem isSome_of_assembleLine_ok {policy : OversizePolicy} {n : Nat} {raw : List Byte} {o : Option InsnWord}
    (assembled : assembleLine policy n raw = .ok o) : o.isSome = hasToken raw := by
  unfold hasToken
  match valid : decodeUtf8 raw with
  | none => cases (assembleLine_of_invalid valid).symm.trans assembled
  | some line =>
    rw [Option.any_some]
    by_cases blank : tokens line = []
    · cases (assembleLine_of_blank valid blank).symm.trans assembled
      rw [blank]
      rfl
    · rw [List.isEmpty_eq_false_iff.mpr blank]
      match parsed : parseTokens (tokens line) with
      | .error r => cases (assembleLine_of_parse_error valid blank parsed).symm.trans assembled
      | .ok f =>
        match packed : packFields policy f with
        | .error (field, v) => cases (assembleLine_of_field_error valid parsed packed).symm.trans assembled
        | .ok w =>
          cases (assembleLine_of_word valid parsed packed).symm.trans assembled
          rfl

/-- The word of a line's outcome, with the line's number. -/
def numberedWord (line : Nat × Except Error (Option InsnWord)) : Option (Nat × InsnWord) :=
  match line with
  | (n, .ok (some w)) => some (n, w)
  | _ => none

/-- The outcome of each line, with the line's number, from number `n` on. -/
def lineOutcomes (policy : OversizePolicy) (n : Nat) (lines : List (List Byte)) :
    List (Nat × Except Error (Option InsnWord)) :=
  lines.mapIdx fun k raw => (k + n, assembleLine policy (k + n) raw)

theorem lineOutcomes_cons (policy : OversizePolicy) (n : Nat) (raw : List Byte) (rest : List (List Byte)) :
    lineOutcomes policy n (raw :: rest) = (n, assembleLine policy n raw) :: lineOutcomes policy (n + 1) rest := by
  simp only [lineOutcomes, List.mapIdx_cons, Nat.zero_add, lineNumber_succ]

theorem filterMap_numberedWord_cons (n : Nat) (o : Option InsnWord)
    (rest : List (Nat × Except Error (Option InsnWord))) :
    ((n, .ok o) :: rest).filterMap numberedWord = (o.map (n, ·)).toList ++ rest.filterMap numberedWord := by
  cases o <;> rfl

theorem assembleLines_cons_eq_ok {policy : OversizePolicy} {n : Nat} {raw : List Byte} {rest : List (List Byte)}
    {ws : List (Nat × InsnWord)} (h : assembleLines policy n (raw :: rest) = .ok ws) :
    ∃ o later, assembleLine policy n raw = .ok o ∧ assembleLines policy (n + 1) rest = .ok later ∧
      ws = (o.map (n, ·)).toList ++ later := by
  match line : assembleLine policy n raw with
  | .error e => cases (assembleLines_cons_of_error line rest).symm.trans h
  | .ok o =>
    rw [assembleLines_cons_of_ok line] at h
    match lines : assembleLines policy (n + 1) rest with
    | .error e =>
      rw [lines] at h
      cases h
    | .ok later =>
      rw [lines] at h
      cases h
      exact ⟨o, later, rfl, rfl, rfl⟩

/-- What an assembly of lines that succeeds is: every line assembles, and the words are those of the lines that have
a token. -/
structure LinesAssembled (policy : OversizePolicy) (n : Nat) (lines : List (List Byte)) (ws : List (Nat × InsnWord)) :
    Prop where
  each : ∀ k raw, lines[k]? = some raw → ∃ o, assembleLine policy (k + n) raw = .ok o
  words : ws = (lineOutcomes policy n lines).filterMap numberedWord
  count : ws.length = lines.countP hasToken

theorem linesAssembled_of_ok {policy : OversizePolicy} {n : Nat} {lines : List (List Byte)}
    {ws : List (Nat × InsnWord)} (h : assembleLines policy n lines = .ok ws) : LinesAssembled policy n lines ws := by
  induction lines generalizing n ws with
  | nil =>
    cases h
    exact ⟨fun _ _ present => absurd present (by simp), rfl, rfl⟩
  | cons raw rest ih =>
    obtain ⟨o, later, line, lines, rfl⟩ := assembleLines_cons_eq_ok h
    obtain ⟨each, words, count⟩ := ih lines
    refine ⟨fun k last present => ?_, ?_, ?_⟩
    · match k with
      | 0 =>
        obtain rfl : raw = last := Option.some.inj present
        exact ⟨o, by rwa [Nat.zero_add]⟩
      | k + 1 =>
        exact lineNumber_succ k n ▸ each k last present
    · rw [lineOutcomes_cons, line, filterMap_numberedWord_cons, ← words]
    · rw [List.countP_cons, ← isSome_of_assembleLine_ok line, List.length_append, count]
      cases o <;> simp [Nat.add_comm]

theorem assemble_of_ok {policy : OversizePolicy} {listing : List Byte} {ws : List (Nat × InsnWord)}
    (h : assembleLines policy 1 (splitLines listing) = .ok ws) :
    assemble policy listing =
      .ok { words := ws.map (·.2), log := ws.map fun e => (lineKey e.1, wordHex e.2) } := by
  rw [assemble, h]

theorem map_mapIdx {α β γ : Type} (g : β → γ) (f : Nat → α → β) (l : List α) :
    (l.mapIdx f).map g = l.mapIdx fun k x => g (f k x) := by
  rw [List.mapIdx_eq_zipIdx_map, List.mapIdx_eq_zipIdx_map, List.map_map]
  rfl

/-- Settles O50: each line in turn adds its word, and the log renders the numbered words. -/
theorem oneWordAndOneLogEntryPerNonBlankLine : Obligations.OneWordAndOneLogEntryPerNonBlankLine := by
  intro policy listing
  match lines : assembleLines policy 1 (splitLines listing) with
  | .error e => exact .inl ⟨e, (assemble_eq_error_iff policy listing e).mpr lines⟩
  | .ok ws =>
    obtain ⟨each, words, count⟩ := linesAssembled_of_ok lines
    have outcomes : ((splitLines listing).mapIdx fun k raw => assembleLine policy (k + 1) raw) =
        (lineOutcomes policy 1 (splitLines listing)).map Prod.snd := by
      rw [lineOutcomes, map_mapIdx]
    refine .inr ⟨_, assemble_of_ok lines, each, ?_, ?_, ?_⟩
    · change ws.map _ = _
      rw [words, outcomes, List.map_filterMap, List.filterMap_map]
      exact List.filterMap_congr fun line _ => by rcases line with ⟨n, _ | _ | w⟩ <;> rfl
    · change ws.map _ = List.filterMap _ (lineOutcomes policy 1 (splitLines listing))
      rw [words, List.map_filterMap]
      exact List.filterMap_congr fun line _ => by rcases line with ⟨n, _ | _ | w⟩ <;> rfl
    · rw [List.length_map, count]
      refine List.countP_congr fun raw _ => ?_
      rw [hasToken]
      cases decodeUtf8 raw <;> rfl

end Sys2Proof.Assembler
end

section
/-! PROOFS. The listing of a word list assembles to those words (R62 to R71). -/

namespace Sys2Proof.Listing

open Sys2Proof.Machine Sys2Proof.Codec Sys2Proof.Tokens Sys2Proof.Assembler

/-! ## Characters of a token -/

/-- A character a token of a listing can have: ASCII, no whitespace and no end of line. -/
structure TokenChar (c : CodePoint) : Prop where
  ascii : c < 0x80
  notSpace : isSpace c = false
  notNewline : c ≠ 0x0A

/-- The printing characters of ASCII begin after the space. -/
theorem tokenChar_of_printing {c : Nat} (low : 0x20 < c) (high : c < 0x80) : TokenChar c := by
  have above : ∀ k ≤ 0x20, c ≠ k := fun k small => by omega
  refine ⟨high, ?_, above 0x0A (by decide)⟩
  simp [isSpace, above]

theorem tokenChar_of_hexDigit {c d : Nat} (digit : hexDigit c = some d) : TokenChar c := by
  have ranges : (0x30 ≤ c ∧ c ≤ 0x39) ∨ (0x61 ≤ c ∧ c ≤ 0x66) ∨ (0x41 ≤ c ∧ c ≤ 0x46) := by
    by_contra none
    obtain ⟨not_digit, not_lower, not_upper⟩ := by simpa only [not_or] using none
    rw [hexDigit, if_neg not_digit, if_neg not_lower, if_neg not_upper] at digit
    cases digit
  exact tokenChar_of_printing (by omega) (by omega)

/-- Characters that have a value are digits. -/
theorem tokenChar_paddedHex (width n : Nat) : ∀ c ∈ codes (paddedHex width n), TokenChar c := by
  intro c mem
  match digit : hexDigit c with
  | some d => exact tokenChar_of_hexDigit digit
  | none =>
    have noValue := (hexValueFrom_eq_none_iff 0 _).mpr ⟨c, mem, digit⟩
    cases noValue.symm.trans (hexValueFrom_paddedHex width n)

theorem tokenChar_listingToken (width n : Nat) : ∀ c ∈ codes (listingToken width n), TokenChar c := by
  rw [listingToken, codes_append]
  refine List.forall_mem_append.mpr ⟨fun c mem => ?_, tokenChar_paddedHex width n⟩
  have pre : ∀ c ∈ codes ['0', 'x'], 0x20 < c ∧ c < 0x80 := by decide
  exact tokenChar_of_printing (pre c mem).1 (pre c mem).2

/-! ## Tokens of a line -/

theorem tokensFrom_append {word : List CodePoint} (solid : ∀ c ∈ word, isSpace c = false)
    (run rest : List CodePoint) :
    tokensFrom run (word ++ rest) = tokensFrom (word.reverse ++ run) rest := by
  induction word generalizing run with
  | nil => rfl
  | cons c cs ih =>
    obtain ⟨first, later⟩ := List.forall_mem_cons.mp solid
    rw [List.cons_append, tokensFrom, first, if_neg Bool.false_ne_true, ih later, List.reverse_cons, List.append_assoc,
      List.singleton_append]

/-- A token is cut off at the whitespace after it. -/
theorem tokens_append_space {word : List CodePoint} (solid : ∀ c ∈ word, isSpace c = false) (nonempty : word ≠ [])
    {space : CodePoint} (blank : isSpace space = true) (rest : List CodePoint) :
    tokens (word ++ space :: rest) = word :: tokens rest := by
  have run : word.reverse ++ [] ≠ [] := by simpa using nonempty
  rw [tokens, tokensFrom_append solid, tokensFrom, if_pos blank, if_neg run, List.append_nil, List.reverse_reverse,
    tokens]

theorem tokens_of_solid {word : List CodePoint} (solid : ∀ c ∈ word, isSpace c = false) (nonempty : word ≠ []) :
    tokens word = [word] := by
  have run : word.reverse ++ [] ≠ [] := by simpa using nonempty
  have whole : tokensFrom [] (word ++ []) = tokensFrom (word.reverse ++ []) [] := tokensFrom_append solid [] []
  rw [List.append_nil, tokensFrom, if_neg run, List.append_nil, List.reverse_reverse] at whole
  exact whole

/-! ## The line of a word -/

/-- A field as the listing writes it (notes/assumptions/22). -/
def fieldToken (n : Nat) : List CodePoint :=
  codes (listingToken 2 n)

theorem codes_listingLine (w : InsnWord) :
    codes (listingLine w) = fieldToken (decodeFields w).a.toNat ++ 0x20 ::
      (fieldToken (decodeFields w).b.val ++ 0x20 :: fieldToken (decodeFields w).c.toNat) := by
  simp only [listingLine, codes_append, List.append_assoc]
  rfl

theorem solid_fieldToken (n : Nat) : ∀ c ∈ fieldToken n, isSpace c = false :=
  fun c mem => (tokenChar_listingToken 2 n c mem).notSpace

theorem fieldToken_ne_nil (n : Nat) : fieldToken n ≠ [] :=
  List.cons_ne_nil _ _

theorem tokens_listingLine (w : InsnWord) :
    tokens (codes (listingLine w)) = [fieldToken (decodeFields w).a.toNat, fieldToken (decodeFields w).b.val,
      fieldToken (decodeFields w).c.toNat] := by
  rw [codes_listingLine, tokens_append_space (solid_fieldToken _) (fieldToken_ne_nil _) rfl,
    tokens_append_space (solid_fieldToken _) (fieldToken_ne_nil _) rfl,
    tokens_of_solid (solid_fieldToken _) (fieldToken_ne_nil _)]

/-- The values of a word's fields. -/
def rawFields (w : InsnWord) : RawFields :=
  { opcode := (decodeFields w).a.toNat, register := (decodeFields w).b.val, operand := (decodeFields w).c.toNat }

theorem parseTokens_listingLine (w : InsnWord) :
    parseTokens (tokens (codes (listingLine w))) = .ok (rawFields w) := by
  rw [tokens_listingLine]
  exact parseTokens_of_values (parseToken_listingToken 0 2 _) (parseToken_listingToken 1 2 _)
    (parseToken_listingToken 2 2 _)

theorem wellFormed_rawFields (w : InsnWord) : (rawFields w).wellFormed :=
  ⟨(decodeFields w).a.isLt, (decodeFields w).b.isLt, (decodeFields w).c.isLt⟩

theorem masked_rawFields (w : InsnWord) : RawFields.masked (rawFields w) = decodeFields w := by
  apply ext_fields
  · exact Nat.mod_eq_of_lt (decodeFields w).a.isLt
  · exact Nat.mod_eq_of_lt (decodeFields w).b.isLt
  · exact Nat.mod_eq_of_lt (decodeFields w).c.isLt

theorem packFields_rawFields (policy : OversizePolicy) (w : InsnWord) : packFields policy (rawFields w) = .ok w := by
  rw [packFields_of_wellFormed policy (wellFormed_rawFields w), masked_rawFields, encodeFields_decodeFields]

/-! ## The bytes of a line -/

/-- The line of a word as the bytes of the file. -/
def lineBytes (w : InsnWord) : List Byte :=
  (listingLine w).map asciiByte

theorem lineChar_listingLine (w : InsnWord) : ∀ c ∈ codes (listingLine w), c < 0x80 ∧ c ≠ 0x0A := by
  have field : ∀ n, ∀ c ∈ fieldToken n, c < 0x80 ∧ c ≠ 0x0A :=
    fun n c mem => ⟨(tokenChar_listingToken 2 n c mem).ascii, (tokenChar_listingToken 2 n c mem).notNewline⟩
  rw [codes_listingLine]
  refine List.forall_mem_append.mpr ⟨field _, List.forall_mem_cons.mpr ⟨by decide, ?_⟩⟩
  exact List.forall_mem_append.mpr ⟨field _, List.forall_mem_cons.mpr ⟨by decide, field _⟩⟩

/-- ASCII text is stored as its code points. -/
theorem toNat_asciiBytes {text : Text} (ascii : ∀ c ∈ codes text, c < 0x80) :
    (text.map asciiByte).map BitVec.toNat = codes text := by
  rw [List.map_map, codes]
  refine List.map_congr_left fun c mem => ?_
  have small : c.toNat < 0x80 := ascii _ (List.mem_map_of_mem mem)
  exact Nat.mod_eq_of_lt (small.trans (by decide))

theorem toNat_lineBytes (w : InsnWord) : (lineBytes w).map BitVec.toNat = codes (listingLine w) :=
  toNat_asciiBytes fun c mem => (lineChar_listingLine w c mem).1

/-- What holds of the code points of a line holds of its bytes. -/
theorem lineChar_lineBytes (w : InsnWord) : ∀ x ∈ lineBytes w, x.toNat < 0x80 ∧ x.toNat ≠ 0x0A :=
  fun _ mem => lineChar_listingLine w _ (toNat_lineBytes w ▸ List.mem_map_of_mem mem)

theorem decodeUtf8_lineBytes (w : InsnWord) : decodeUtf8 (lineBytes w) = some (codes (listingLine w)) := by
  rw [decodeUtf8_of_ascii fun x mem => (lineChar_lineBytes w x mem).1, toNat_lineBytes]

theorem assembleLine_lineBytes (policy : OversizePolicy) (n : Nat) (w : InsnWord) :
    assembleLine policy n (lineBytes w) = .ok (some w) :=
  assembleLine_of_word (decodeUtf8_lineBytes w) (parseTokens_listingLine w) (packFields_rawFields policy w)

/-! ## The lines of a listing -/

theorem splitLines_append_newline {line : List Byte} (oneLine : ∀ x ∈ line, x ≠ 0x0A) (rest : List Byte) :
    splitLines (line ++ 0x0A :: rest) = line :: splitLines rest := by
  induction line with
  | nil => rfl
  | cons x xs ih =>
    obtain ⟨first, later⟩ := List.forall_mem_cons.mp oneLine
    rw [List.cons_append, splitLines, if_neg first, ih later]

theorem splitLines_listingOf (ws : List InsnWord) : splitLines (listingOf ws) = ws.map lineBytes ++ [[]] := by
  induction ws with
  | nil => rfl
  | cons w ws ih =>
    have oneLine : ∀ x ∈ lineBytes w, x ≠ 0x0A := by
      rintro x mem rfl
      exact (lineChar_lineBytes w _ mem).2 rfl
    rw [List.map_cons, List.cons_append, ← ih]
    exact splitLines_append_newline oneLine (listingOf ws)

/-- The empty line after the last end of line has no word (R64). -/
theorem assembleLine_nil (policy : OversizePolicy) (n : Nat) : assembleLine policy n [] = .ok none := rfl

theorem assembleLines_lineBytes (policy : OversizePolicy) (n : Nat) (ws : List InsnWord) :
    assembleLines policy n (ws.map lineBytes ++ [[]]) = .ok (ws.mapIdx fun k w => (k + n, w)) := by
  induction ws generalizing n with
  | nil => rfl
  | cons w ws ih =>
    rw [List.map_cons, List.cons_append, assembleLines_cons_of_ok (assembleLine_lineBytes policy n w), ih]
    simp only [List.mapIdx_cons, Nat.zero_add, lineNumber_succ]
    rfl

/-- Settles O48: a listing is cut into its words' lines, and each line's three tokens read back as the word's fields. -/
theorem assembledListingGivesTheWordsBack : Obligations.AssembledListingGivesTheWordsBack := by
  intro policy ws
  have lines : assembleLines policy 1 (splitLines (listingOf ws)) = .ok (ws.mapIdx fun k w => (k + 1, w)) := by
    rw [splitLines_listingOf, assembleLines_lineBytes]
  have words : (ws.mapIdx fun _ w => w) = ws := List.mapIdx_eq_iff.mpr fun _ => Option.map_id_apply.symm
  rw [assemble_of_ok lines, map_mapIdx, map_mapIdx, words]

end Sys2Proof.Listing
end

section
/-! PROOFS. One operation of an invocation: an assembly request (R61, R62, R72, R105), and an execution, which ends
with an observation (R80, R94). -/

namespace Sys2Proof.Operation

open Sys2Proof.Machine Sys2Proof.Safety Sys2Proof.Invariants

/-! ## A run comes to its end -/

/-- A step from a running state ends the run, or advances by one word of the same stream. -/
theorem ended_or_advanced {s t : State} (h : step s = .next t) :
    t.status ≠ .running ∨ (t.ip = s.ip + 1 ∧ t.imem = s.imem) := by
  cases stepEffect_of_step h with
  | finish => exact .inl (by simp)
  | run _ effect =>
    rcases failed_or_retired effect with ⟨e, rfl⟩ | ⟨-, ip, -, stream, -⟩
    · exact .inl (by simp)
    · exact .inr ⟨ip, stream⟩

theorem runFor_of_not_running {s : State} (ended : s.status ≠ .running) (k : Nat) : runFor k s = s := by
  match k with
  | 0 => rfl
  | k + 1 =>
    rw [runFor]
    split
    · exact absurd ‹_› ended
    · rfl

/-- The words left and the closing call are enough to end a run (R78, R79). -/
theorem runFor_ends {k : Nat} {s : State} (sound : ProgressSound s) (enough : s.imem.length < s.ip + k) :
    (runFor k s).status ≠ .running := by
  induction k generalizing s with
  | zero => exact absurd sound.1 (Nat.not_le.mpr enough)
  | succ k ih =>
    by_cases running : s.status = .running
    · obtain ⟨t, h⟩ := (stepAnswersNextExactlyWhileRunning.1 s sound).mpr running
      rw [CellWidth.runFor_of_next k h]
      rcases ended_or_advanced h with ended | ⟨ip, stream⟩
      · rwa [runFor_of_not_running ended]
      · refine ih (progressStaysSound s t sound h) ?_
        rw [ip, stream]
        omega
    · rwa [runFor_of_not_running running]

theorem exists_observe {s : State} (ended : s.status ≠ .running) : ∃ o, s.observe = some o := by
  match status : s.status with
  | .running => exact absurd status ended
  | .done => exact ⟨_, Result.observe_of_done status⟩
  | .fatal e => exact ⟨_, Result.observe_of_fatal status⟩

theorem execute_of_error {cfg : Config} {req : ExecuteRequest} {file : Option (List Byte)} {e : Error}
    (h : boot cfg req file = .error e) : execute cfg req file = some (.fatal e) := by
  rw [execute, h]

/-- Every execution has an observation (R94). -/
theorem exists_execute (cfg : Config) (req : ExecuteRequest) (file : Option (List Byte)) :
    ∃ o, execute cfg req file = some o := by
  match booted : boot cfg req file with
  | .error e => exact ⟨_, execute_of_error booted⟩
  | .ok s =>
    have start : ProgressSound s := by
      obtain ⟨imem, -, rfl⟩ := boot_ok booted
      exact (runInvariant_startState ..).progress
    rw [execute, booted]
    exact exists_observe (runFor_ends start (by omega))

theorem boot_of_missing {cfg : Config} {req : ExecuteRequest}
    (range : WellFormed.dumpRange cfg.memSize req.dumpStart req.dumpEnd) :
    boot cfg req none = .error (.fileNotFound req.binary) :=
  if_pos range

/-! ## The assembly request -/

section
variable {cfg : Config} {files : Files} {req : AssembleRequest} {listing : List Byte}

theorem assembleRequest_of_missing (missing : files.get req.listing = none) :
    assembleRequest cfg files req = .error (.fileNotFound req.listing) := by
  rw [assembleRequest, missing]

theorem assembleRequest_of_error {e : Error} (present : files.get req.listing = some listing)
    (failed : assemble cfg.oversizePolicy listing = .error e) : assembleRequest cfg files req = .error e := by
  simp only [assembleRequest, present, failed]

theorem assembleRequest_of_ok {out : Assembly} (present : files.get req.listing = some listing)
    (assembled : assemble cfg.oversizePolicy listing = .ok out) :
    assembleRequest cfg files req = .ok (imageOfWords out.words, out.log) := by
  simp only [assembleRequest, present, assembled]

end

/-! ## The files after a write -/

theorem get_cons (p q : Path) (bytes : List Byte) (files : Files) :
    Files.get ((p, bytes) :: files) q = if p = q then some bytes else Files.get files q := rfl

/-! ## An execution after what was done so far -/

section
variable {cfg : Config} {sofar : InvocationOutcome} {req : ExecuteRequest}

theorem executeAfter_of_result {r : Snapshot} (h : execute cfg req (sofar.files.get req.binary) = some (.result r)) :
    executeAfter cfg sofar req = { sofar with result := some r.output } := by
  rw [executeAfter, h]

theorem executeAfter_of_fatal {e : Error} (h : execute cfg req (sofar.files.get req.binary) = some (.fatal e)) :
    executeAfter cfg sofar req = { sofar with error := some e } := by
  rw [executeAfter, h]

end

/-! ## An invocation of one operation -/

section
variable {cfg : Config} {files : Files}

theorem invoke_assemble_of_error {asm : AssembleRequest} {e : Error} (failed : assembleRequest cfg files asm = .error e)
    (ex : Option ExecuteRequest) :
    invoke cfg files { assemble := some asm, execute := ex } =
      { files := files, log := none, result := none, error := some e } := by
  simp only [invoke, failed]

/-- The invocation after an assembly that succeeded: its binary and log are written (R130). -/
theorem invoke_assemble_of_ok {asm : AssembleRequest} {bytes : List Byte} {log : List (Text × Text)}
    (assembled : assembleRequest cfg files asm = .ok (bytes, log)) :
    invoke cfg files { assemble := some asm, execute := none } =
      { files := (asm.binary, bytes) :: files, log := some log, result := none, error := none } := by
  simp only [invoke, assembled]

theorem invoke_execute (ex : ExecuteRequest) :
    invoke cfg files { assemble := none, execute := some ex } =
      executeAfter cfg { files := files, log := none, result := none, error := none } ex := rfl

end

/-- Settles O60: the cases of an assembly request, and an execution's observation, which every run has. -/
theorem eachOperationRunsAlone : Obligations.EachOperationRunsAlone := by
  intro cfg files asm ex
  refine ⟨assembleRequest_of_missing, fun listing present =>
    ⟨fun _ => assembleRequest_of_error present, fun _ => assembleRequest_of_ok present⟩,
    fun e failed => invoke_assemble_of_error failed none, fun bytes log assembled => ?_, ?_, fun range missing => ?_⟩
  · refine ⟨_, invoke_assemble_of_ok assembled, ?_, fun path other => ?_⟩
    · rw [get_cons, if_pos rfl]
    · rw [get_cons, if_neg (Ne.symm other)]
  · obtain ⟨o, ends⟩ := exists_execute cfg ex (files.get ex.binary)
    refine ⟨o, ends, ?_, ?_⟩
    · rintro r rfl
      rw [invoke_execute, executeAfter_of_result ends]
    · rintro e rfl
      rw [invoke_execute, executeAfter_of_fatal ends]
  · have ends : execute cfg ex (files.get ex.binary) = some (.fatal (.fileNotFound ex.binary)) := by
      rw [missing, execute_of_error (boot_of_missing range)]
    rw [invoke_execute, executeAfter_of_fatal ends]

end Sys2Proof.Operation
end

section
/-! PROOFS. The dispatch: what one instruction does to `T`, `ip` and the status (R87, R88, R103), and that the control
table's datapath is the instructions' meanings (R77, R83 to R86). -/

namespace Sys2Proof.Dispatch

open Sys2Proof.Machine Sys2Proof.Safety

/-- Settles O20: the word at `ip` is the word the step fetches (R81). -/
theorem stepRunsTheDecodedInstruction : Obligations.StepRunsTheDecodedInstruction :=
  fun _ _ running fetched => step_of_fetch running fetched

/-! ## The record and the advance -/

/-- An instruction that leaves the run running retires (R87, R88). -/
theorem retired_of_running {i : Instr} {s t : State} (h : exec i s = .next t) (running : t.status = .running) :
    Retired i.register s t := by
  rcases failed_or_retired (effect_of_exec h) with ⟨e, rfl⟩ | retired
  · cases running
  · exact retired

/-- Settles O23: the instruction retires, so its register is in `T`, and the snapshot shows the registers of `T`. -/
theorem everyInstructionRecordsItsRegister : Obligations.EveryInstructionRecordsItsRegister := by
  intro i s t _ h running
  obtain ⟨recorded, -⟩ := retired_of_running h running
  refine ⟨recorded, (Result.mem_snapshot_registers t _ _).mpr ⟨?_, rfl⟩⟩
  rw [recorded, decide_eq_true rfl, Bool.or_true]

/-- Settles O24: the advance is part of retiring, and an error changes the status only. -/
theorem ipAdvancesByOneOrTheRunEnds : Obligations.IpAdvancesByOneOrTheRunEnds := by
  intro i s t running h
  rcases failed_or_retired (effect_of_exec h) with ⟨e, rfl⟩ | ⟨-, ip, status, -⟩
  · exact .inr ⟨⟨e, rfl⟩, rfl⟩
  · exact .inl ⟨status.trans running, ip⟩

/-! ## The errors of an instruction -/

/-- The two errors an instruction can raise, each with the condition it is raised on (R104, R110, R112). -/
inductive RaisedError (i : Instr) (s : State) : Error → Prop where
  | outOfBounds (access : AccessesMemory i.opcode) (above : s.params.memSize ≤ i.operand.toNat) :
      RaisedError i s (.outOfBoundsAccess s.ip (encode i) i.operand.toNat)
  | unknown (strict : s.params.strictOpcodes = true) (unrecognized : ¬ Recognized i.opcode) :
      RaisedError i s (.unknownInstruction s.ip (encode i) i.opcode)

theorem raisedError_of_exec {i : Instr} {s t : State} {e : Error} (running : s.status = .running)
    (h : exec i s = .next t) (failed : t.status = .fatal e) : t = s.fail e ∧ RaisedError i s e := by
  rcases exec_cases i s with
    ⟨access, above, ran⟩ | ⟨unknown, strict, ran⟩ | ⟨-, ran⟩ | ⟨-, -, ran⟩ | ⟨-, -, ran⟩ | ⟨-, -, ran⟩ | ⟨-, -, ran⟩
  all_goals
    rw [ran] at h
    cases h
  · cases failed
    exact ⟨rfl, .outOfBounds access above⟩
  · cases failed
    exact ⟨rfl, .unknown strict unknown⟩
  -- Retiring keeps the status, which was running.
  all_goals exact absurd (running.symm.trans failed) (by simp)

/-- Settles O28: a step fails only in the instruction it runs, whose encoding is the fetched word (R54). -/
theorem failingStepChangesOnlyTheStatus : Obligations.FailingStepChangesOnlyTheStatus := by
  intro s t e h failed
  obtain ⟨running, ⟨-, rfl⟩ | ⟨w, -, fetched, ran⟩⟩ := step_cases h
  · cases failed
  obtain ⟨kept, raised⟩ := raisedError_of_exec running ran failed
  refine ⟨kept, w, fetched, ?_⟩
  rw [← opcode_decode, ← operand_decode]
  cases raised with
  | outOfBounds access above => exact .inl ⟨access, above, by rw [encode_decode]⟩
  | unknown strict unknown => exact .inr ⟨strict, unknown, by rw [encode_decode]⟩

/-! ## The datapath -/

theorem dispatch_of_unrecognized {a : Opcode} (unknown : ¬ Recognized a) :
    dispatch a =
      { unknown := true, rfWe := false, wsel := none, memRe := false, memWe := false, chk := false } := by
  obtain ⟨not6, not8, not25, not10⟩ := by simpa only [Recognized, not_or] using unknown
  simp only [dispatch, if_neg not6, if_neg not8, if_neg not25, if_neg not10]

/-- The opcodes that access the memory are checked (R83). -/
theorem chk_dispatch_of_accessesMemory {a : Opcode} (access : AccessesMemory a) : (dispatch a).chk = true := by
  rcases access with rfl | rfl | rfl
  all_goals rfl

theorem oob_of_lt {ctl : Control} {c : Operand} {s : State} (below : cellIndex c < s.params.memSize) :
    oob ctl c s = false := by
  rw [oob, decide_eq_true below, Bool.not_true, Bool.and_false]

theorem oob_of_le {ctl : Control} {c : Operand} {s : State} (checked : ctl.chk = true)
    (above : s.params.memSize ≤ cellIndex c) : oob ctl c s = true := by
  rw [oob, checked, decide_eq_false (Nat.not_lt.mpr above), Bool.not_false, Bool.and_true]

section
variable {w : InsnWord} {s : State} {ctl : Control} (row : dispatch (decodeFields w).a = ctl)
include row

theorem datapath_of_oob (out : oob ctl (decodeFields w).c s = true) :
    datapath w s = .next (s.fail (.outOfBoundsAccess s.ip w (cellIndex (decodeFields w).c))) := by
  rw [datapath, row, if_pos out, raise]

theorem datapath_of_unknown (inside : oob ctl (decodeFields w).c s = false) (unknown : ctl.unknown = true)
    (strict : s.params.strictOpcodes = true) :
    datapath w s = .next (s.fail (.unknownInstruction s.ip w (decodeFields w).a)) := by
  simp only [datapath, row, inside, unknown, strict, raise, Bool.and_self, Bool.false_eq_true, if_false, if_true]

/-- A word that passes the checks: the memory write, the register write and retiring, under its control signals. -/
theorem datapath_of_passed (inside : oob ctl (decodeFields w).c s = false)
    (allowed : (ctl.unknown && s.params.strictOpcodes) = false) :
    datapath w s =
      .next ((writePort ctl.rfWe (decodeFields w).b
        (writeData ctl.wsel (decodeFields w).c (if ctl.memRe then s.readCell (cellIndex (decodeFields w).c) else 0))
        (memWritePort ctl.memWe (decodeFields w).c (s.readReg (decodeFields w).b) s)).retire (decodeFields w).b) := by
  simp only [datapath, row, inside, allowed, Bool.false_eq_true, if_false, State.retire]

end

/-- Settles O30: each row of the control table (R83) has the checks and the signals its instruction's meaning needs. -/
theorem datapathRunsEveryInstruction : Obligations.DatapathRunsEveryInstruction := by
  intro w s
  rcases exec_cases (decode w) s with
    ⟨op, above, e⟩ | ⟨op, strict, e⟩ | ⟨op, e⟩ | ⟨op, below, e⟩ | ⟨op, below, e⟩ | ⟨op, below, e⟩ | ⟨op, lax, e⟩
  all_goals
    rw [e]
    simp only [opcode_decode, operand_decode, register_decode, encode_decode] at *
  · exact datapath_of_oob rfl (oob_of_le (chk_dispatch_of_accessesMemory op) above)
  · exact datapath_of_unknown (dispatch_of_unrecognized op) rfl rfl strict
  · exact datapath_of_passed (congrArg dispatch op) rfl rfl
  · exact datapath_of_passed (congrArg dispatch op) (oob_of_lt below) rfl
  · exact datapath_of_passed (congrArg dispatch op) (oob_of_lt below) rfl
  · exact datapath_of_passed (congrArg dispatch op) (oob_of_lt below) rfl
  · exact datapath_of_passed (dispatch_of_unrecognized op) rfl lax

end Sys2Proof.Dispatch
end

section
/-! PROOFS. A run and its end: the steps a run takes (R78 to R80), and what it shows then (R94). -/

namespace Sys2Proof.Progress

open Sys2Proof.Machine Sys2Proof.Safety Sys2Proof.Invariants Sys2Proof.Operation

/-! ## The steps of a run -/

/-- How far `k` steps of a run have come from `s`, at `t`. -/
structure Advanced (k : Nat) (s t : State) : Prop where
  stream : t.imem = s.imem
  running : t.status = .running → t.ip = s.ip + k
  done : t.status = .done → t.ip = s.imem.length ∧ s.ip + k = s.imem.length + 1

theorem advanced_of_steps {k : Nat} {s t : State} (running : s.status = .running) (run : Steps k s t) :
    Advanced k s t := by
  induction run with
  | refl => exact ⟨rfl, fun _ => rfl, fun done => absurd (running.symm.trans done) (by simp)⟩
  | @tail k s t u _ last ih =>
    obtain ⟨stream, advanced, -⟩ := ih running
    have ip : t.ip = s.ip + k := advanced (step_cases last).1
    cases stepEffect_of_step last with
    | finish atEnd =>
      rw [stream] at atEnd
      exact ⟨stream, nofun, fun _ => ⟨atEnd, by omega⟩⟩
    | run _ effect =>
      rcases failed_or_retired effect with ⟨e, rfl⟩ | ⟨-, next, status, kept, -⟩
      · exact ⟨stream, nofun, nofun⟩
      · refine ⟨kept.trans stream, fun _ => by omega, fun done => ?_⟩
        exact absurd ((step_cases last).1.symm.trans (status.symm.trans done)) (by simp)

/-- Settles O37: every instruction advances `ip` by one, and the closing step finds `ip = N` and leaves it there. -/
theorem runTakesOneStepPerWord : Obligations.RunTakesOneStepPerWord := by
  intro s t k running run
  obtain ⟨-, advanced, closed⟩ := advanced_of_steps running run
  exact ⟨advanced, closed⟩

/-! ## The end of a run -/

/-- Settles O38: the words left and the closing call are enough to end a running run; a run that is over stays so. -/
theorem runEndsWithinItsLength : Obligations.RunEndsWithinItsLength := by
  intro s inside
  by_cases running : s.status = .running
  · exact runFor_ends (Scope.progressSound_of_running running inside) (by omega)
  · rwa [runFor_of_not_running running]

theorem steps_of_step_steps {k : Nat} {s t u : State} (first : step s = .next t) (run : Steps k t u) :
    Steps (k + 1) s u := by
  induction run with
  | refl => exact .tail (.refl s) first
  | tail _ last ih => exact .tail (ih first) last

/-- A run of at most `k` steps is some number of steps up to `k`. -/
theorem exists_steps_runFor (k : Nat) (s : State) : ∃ j, j ≤ k ∧ Steps j s (runFor k s) := by
  induction k generalizing s with
  | zero => exact ⟨0, le_rfl, .refl s⟩
  | succ k ih =>
    by_cases next : ∃ t, step s = .next t
    · obtain ⟨t, h⟩ := next
      obtain ⟨j, within, run⟩ := ih t
      rw [CellWidth.runFor_of_next k h]
      exact ⟨j + 1, Nat.succ_le_succ within, steps_of_step_steps h run⟩
    · rw [CellWidth.runFor_of_stuck _ (not_exists.mp next)]
      exact ⟨0, Nat.zero_le _, .refl s⟩

theorem execute_of_boot {cfg : Config} {req : ExecuteRequest} {file : Option (List Byte)} {s : State}
    (booted : boot cfg req file = .ok s) : execute cfg req file = (runFor (s.imem.length + 1) s).observe := by
  rw [execute, booted]

/-- A booted run is over after its words and the closing call. -/
theorem ended_of_boot {cfg : Config} {req : ExecuteRequest} {file : Option (List Byte)} {s : State}
    (booted : boot cfg req file = .ok s) : (runFor (s.imem.length + 1) s).status ≠ .running := by
  obtain ⟨-, -, ip, -⟩ := resetIsTheStartOfRunState.2 cfg req file s booted
  have ends := runEndsWithinItsLength s (ip ▸ Nat.zero_le _)
  rwa [ip, Nat.sub_zero] at ends

/-- Settles O44: a start that succeeds gives a run that ends within `N + 1` calls, and an ended run shows its result
or its error. -/
theorem executionShowsAResultOrAnError : Obligations.ExecutionShowsAResultOrAnError := by
  intro cfg req file
  match booted : boot cfg req file with
  | .error e => exact ⟨_, execute_of_error booted, .inl ⟨e, rfl, rfl⟩⟩
  | .ok s =>
    obtain ⟨k, within, run⟩ := exists_steps_runFor (s.imem.length + 1) s
    rw [execute_of_boot booted]
    match status : (runFor (s.imem.length + 1) s).status with
    | .running => exact absurd status (ended_of_boot booted)
    | .done => exact ⟨_, Result.observe_of_done status, .inr ⟨s, _, k, rfl, run, within, .inl ⟨status, rfl⟩⟩⟩
    | .fatal e =>
      exact ⟨_, Result.observe_of_fatal status, .inr ⟨s, _, k, rfl, run, within, .inr ⟨e, status, rfl⟩⟩⟩

end Sys2Proof.Progress
end

section
/-! PROOFS. The keys of the result output are distinct (R93, D14). -/

namespace Sys2Proof.ResultKeys

open Sys2Proof.Machine Sys2Proof.Tokens

/-- Decimal digits read back give the number. -/
theorem decimal_injective : Function.Injective decimal :=
  Function.LeftInverse.injective (g := fun digits => Nat.ofDigitChars 10 digits 0) fun _ =>
    Nat.ofDigitChars_ten_toDigits

theorem paddedHex_injective (width : Nat) : Function.Injective (paddedHex width) := by
  intro m n same
  have value : some m = some n := by
    rw [← hexValueFrom_paddedHex width m, same, hexValueFrom_paddedHex]
  exact Option.some_inj.mp value

theorem registerKey_injective : Function.Injective registerKey :=
  fun _ _ same => Fin.ext (decimal_injective (List.append_cancel_left same))

theorem addressKey_injective : Function.Injective addressKey :=
  fun _ _ same => paddedHex_injective 4 (List.append_cancel_left same)

theorem registerKey_ne_memoryKey (r : RegIdx) : registerKey r ≠ memoryKey := by
  intro same
  have first : some 'r' = some 'm' := congrArg List.head? same
  exact absurd first (by decide)

/-- Settles O57: the digits of a key read back its number, and the first characters tell `register_<r>` from
`memory`. -/
theorem resultKeysAreDistinct : Obligations.ResultKeysAreDistinct :=
  ⟨fun _ _ same => registerKey_injective same, fun _ _ same => addressKey_injective same, registerKey_ne_memoryKey⟩

end Sys2Proof.ResultKeys
end

section
/-! PROOFS. The transfer instructions, each with its result, its frame, its error and its word (R96 to R98). -/

namespace Sys2Proof.TransferFrame

open Sys2Proof.Machine Sys2Proof.Safety Sys2Proof.Codec Sys2Proof.Transfer

theorem toNat_encode (i : Instr) :
    (encode i).toNat = i.opcode.toNat + 32 * i.register.val + 2048 * i.operand.toNat :=
  toNat_encodeFields i.fields

/-- Past MEM_SIZE a checked access is the error, whatever the access is (R38). -/
theorem withBounds_of_le {i : Instr} {s : State} (access : State) (above : s.params.memSize ≤ i.operand.toNat) :
    withBounds i s access = .next (s.fail (.outOfBoundsAccess s.ip (encode i) i.operand.toNat)) :=
  if_neg above.not_gt

/-- What is seen of a state after one register write and the common tail (R85, R87, R88). -/
theorem writeReg_retire_frame (s : State) (b : RegIdx) (v : Word) :
    ((s.writeReg b v).retire b).readReg b = v ∧ OtherRegistersKept b s ((s.writeReg b v).retire b) ∧
      CellsKept s ((s.writeReg b v).retire b) ∧ Retired b s ((s.writeReg b v).retire b) := by
  refine ⟨?_, fun r other => ?_, fun _ => rfl, State.isTouched_retire _ _, rfl, rfl, rfl, rfl⟩
  · rw [State.readReg_retire, State.readReg_writeReg, if_pos rfl]
  · rw [State.readReg_retire, State.readReg_writeReg, if_neg other]

/-- What is seen of a state after one cell write and the common tail (R39, R87, R88). -/
theorem writeCell_retire_frame (s : State) (a : Nat) (v : Word) (b : RegIdx) :
    ((s.writeCell a v).retire b).readCell a = v ∧
      (∀ k, k ≠ a → ((s.writeCell a v).retire b).readCell k = s.readCell k) ∧
      RegistersKept s ((s.writeCell a v).retire b) ∧ Retired b s ((s.writeCell a v).retire b) := by
  refine ⟨?_, fun k other => ?_, fun _ => rfl, State.isTouched_retire _ _, rfl, rfl, rfl, rfl⟩
  · rw [State.readCell_retire, State.readCell_writeCell, if_pos rfl]
  · rw [State.readCell_retire, State.readCell_writeCell, if_neg other]

/-- Settles O10: one register write, with no bounds check, of the operand widened with zeros. -/
theorem loadConstWritesItsImmediate : Obligations.LoadConstWritesItsImmediate := by
  intro b c s
  obtain ⟨written, frame⟩ := writeReg_retire_frame s b (immediate c)
  exact ⟨toNat_encode (.loadConst b c), _, exec_loadConst b c s,
    (congrArg BitVec.toNat written).trans (toNat_immediate c), frame⟩

/-- Settles O11: below MEM_SIZE one register write of the cell's value, else the error of the bounds check. -/
theorem readMemCopiesTheCell : Obligations.ReadMemCopiesTheCell := fun b c s =>
  ⟨toNat_encode (.readMem b c),
    fun below => ⟨_, exec_readMem_of_lt b below, writeReg_retire_frame s b (s.readCell (cellIndex c))⟩,
    fun above => withBounds_of_le (i := .readMem b c) _ above⟩

/-- Settles O12: below MEM_SIZE one cell write of the register's value, else the error of the bounds check. -/
theorem writeMemStoresTheRegister : Obligations.WriteMemStoresTheRegister := fun b c s =>
  ⟨toNat_encode (.writeMem b c),
    fun below => ⟨_, exec_writeMem_of_lt b below, writeCell_retire_frame s (cellIndex c) (s.readReg b) b⟩,
    fun above => withBounds_of_le (i := .writeMem b c) _ above⟩

end Sys2Proof.TransferFrame
end

section
/-! PROOFS. The negation, its integer laws, and the instruction that writes it (R99, R100). -/

namespace Sys2Proof.NegateFrame

open Sys2Proof.Machine Sys2Proof.Invariants Sys2Proof.Transfer Sys2Proof.TransferFrame

theorem toNat_negate (v : Word) : (negate v).toNat = (2 ^ 32 - v.toNat) % 2 ^ 32 :=
  BitVec.toNat_ofNat _ _

theorem toInt_eq_least_iff {v : Word} : v.toInt = -2 ^ 31 ↔ v = BitVec.intMin 32 :=
  BitVec.toInt_inj (y := BitVec.intMin 32)

/-- Negation is exact but for the least word (R100). -/
theorem toInt_negate_of_ne_least {v : Word} (other : v.toInt ≠ -2 ^ 31) : (negate v).toInt = -v.toInt :=
  BitVec.toInt_neg_of_ne_intMin (other ∘ toInt_eq_least_iff.mpr)

/-- The least word is its own negation (R100). -/
theorem toInt_negate_of_least {v : Word} (least : v.toInt = -2 ^ 31) : (negate v).toInt = -2 ^ 31 := by
  rw [negate_eq_neg, toInt_eq_least_iff.mp least, BitVec.neg_intMin, toInt_eq_least_iff]

/-- Settles O13: below MEM_SIZE one register write of the cell's negation, else the error of the bounds check. -/
theorem negMemNegatesTheCell : Obligations.NegMemNegatesTheCell := by
  intro b c s
  refine ⟨toNat_encode (.negMem b c), fun below => ?_, fun above => withBounds_of_le (i := .negMem b c) _ above⟩
  obtain ⟨written, frame⟩ := writeReg_retire_frame s b (negate (s.readCell c.toNat))
  refine ⟨_, exec_negMem_of_lt b below, ?_⟩
  rw [cellIndex, written]
  exact ⟨toNat_negate _, toInt_negate_of_ne_least, toInt_negate_of_least, frame⟩

end Sys2Proof.NegateFrame
end

section
/-! PROOFS. The 28 unrecognized opcodes: the record and the advance, or the error of STRICT_OPCODES (R101, R102). -/

namespace Sys2Proof.Unrecognized

open Sys2Proof.Machine Sys2Proof.Safety Sys2Proof.Codec Sys2Proof.TransferFrame

/-- The 28 listed opcodes are none of the four with semantics (R2, R101). -/
theorem not_recognized_of_listed {a : Opcode} {make : RegIdx → Operand → Instr}
    (listed : (a, make) ∈ unrecognizedOpcodes) : ¬ Recognized a := by
  have all : ∀ a ∈ unrecognizedOpcodes.map Prod.fst, ¬ Recognized a := by decide
  exact all a (List.mem_map_of_mem listed)

theorem fields_of_listed {a : Opcode} {make : RegIdx → Operand → Instr} (listed : (a, make) ∈ unrecognizedOpcodes)
    (b : RegIdx) (c : Operand) : (make b c).fields = ⟨a, b, c⟩ := by
  obtain ⟨selected, -⟩ := unrecognized_named listed b c
  rw [← selected, fields_ofFields]

/-- Every opcode without semantics of its own has the common meaning (R101, R102). -/
theorem exec_eq_unrecognized {i : Instr} (unknown : ¬ Recognized i.opcode) (s : State) :
    exec i s = unrecognized i s := by
  cases i
  case loadConst | readMem | writeMem | negMem => simp [Instr.opcode] at unknown
  all_goals rfl

/-- What is seen of a state after the common tail alone (R87, R88). -/
theorem retire_frame (s : State) (b : RegIdx) :
    RegistersKept s (s.retire b) ∧ CellsKept s (s.retire b) ∧ Retired b s (s.retire b) :=
  ⟨State.readReg_retire s b, State.readCell_retire s b, State.isTouched_retire s b, rfl, rfl, rfl, rfl⟩

/-- Settles O14: the common tail is all an unrecognized opcode does, and its operand is not looked at. -/
theorem unrecognizedOpcodesOnlyRecord : Obligations.UnrecognizedOpcodesOnlyRecord := by
  intro a make listed b c s lax
  have fields : (make b c).fields = ⟨a, b, c⟩ := fields_of_listed listed b c
  have opcode : (make b c).opcode = a := congrArg Fields.a fields
  have register : (make b c).register = b := congrArg Fields.b fields
  have operand : (make b c).operand = c := congrArg Fields.c fields
  have unknown : ¬ Recognized (make b c).opcode := opcode ▸ not_recognized_of_listed listed
  refine ⟨?_, s.retire b, ?_, retire_frame s b⟩
  · rw [toNat_encode, opcode, register, operand]
  · rw [exec_of_unrecognized unknown lax, register]

/-- Settles O15: with STRICT_OPCODES the common meaning is the error, which records the opcode. -/
theorem strictOpcodesRaiseUnknownInstruction : Obligations.StrictOpcodesRaiseUnknownInstruction := by
  intro a make listed b c s strict
  have opcode : (make b c).opcode = a := congrArg Fields.a (fields_of_listed listed b c)
  have unknown : ¬ Recognized (make b c).opcode := opcode ▸ not_recognized_of_listed listed
  calc exec (make b c) s
      = unrecognized (make b c) s := exec_eq_unrecognized unknown s
    _ = .next (s.fail (.unknownInstruction s.ip (encode (make b c)) (make b c).opcode)) := if_pos strict
    _ = .next (s.fail (.unknownInstruction s.ip (encode (make b c)) a)) := by rw [opcode]

end Sys2Proof.Unrecognized
end

section
/-! PROOFS. The errors and the checks: which instruction raises OutOfBoundsAccessError (R110), the order of the checks
before the first step (R115), and a run under the observer (R124). -/

namespace Sys2Proof.Exceptions

open Sys2Proof.Machine Sys2Proof.Safety Sys2Proof.Dispatch Sys2Proof.TransferFrame Sys2Proof.Start Sys2Proof.Operation

/-- Settles O58: with neither operation the invocation ends before it reads a file (R113). -/
theorem requestingNeitherIsAUsageError : Obligations.RequestingNeitherIsAUsageError :=
  fun _ _ => rfl

/-! ## The error of a memory access -/

/-- A memory access past MEM_SIZE is the error, with nothing else changed (R38, R110). -/
theorem exec_of_outOfBounds {i : Instr} {s : State} (access : AccessesMemory i.opcode)
    (above : s.params.memSize ≤ i.operand.toNat) :
    exec i s = .next (s.fail (.outOfBoundsAccess s.ip (encode i) i.operand.toNat)) := by
  cases i
  case readMem | writeMem | negMem => exact withBounds_of_le _ above
  all_goals exact absurd access (by simp [Instr.opcode])

/-- An instruction raises OutOfBoundsAccessError only as a memory access past MEM_SIZE (R110). -/
theorem access_of_outOfBounds {i : Instr} {s t : State} {ip : Nat} {word : InsnWord} {address : Nat}
    (running : s.status = .running) (h : exec i s = .next t)
    (failed : t.status = .fatal (.outOfBoundsAccess ip word address)) :
    AccessesMemory i.opcode ∧ s.params.memSize ≤ i.operand.toNat := by
  obtain ⟨-, raised⟩ := raisedError_of_exec running h failed
  cases raised with
  | outOfBounds access above => exact ⟨access, above⟩

/-- Settles O17: the error is raised in the bounds check, which only the memory accesses have. -/
theorem outOfBoundsIsRaisedByMemoryAccessesOnly : Obligations.OutOfBoundsIsRaisedByMemoryAccessesOnly := by
  intro i s running
  obtain ⟨t, ran⟩ := exec_answers_next i s
  have failed (access : AccessesMemory i.opcode) (above : s.params.memSize ≤ i.operand.toNat) :
      t = s.fail (.outOfBoundsAccess s.ip (encode i) i.operand.toNat) :=
    Host.Outcome.next.inj (ran.symm.trans (exec_of_outOfBounds access above))
  refine ⟨t, ran, ⟨?_, ?_⟩, failed⟩
  · rintro ⟨ip, word, address, raised⟩
    exact access_of_outOfBounds running ran raised
  · rintro ⟨access, above⟩
    exact ⟨_, _, _, congrArg State.status (failed access above)⟩

/-! ## The checks before the first step -/

theorem dumpRange_iff {memSize : Nat} {start stop : Int} :
    WellFormed.dumpRange memSize start stop ↔ 0 ≤ start ∧ start < memSize ∧ 0 ≤ stop ∧ stop ≤ memSize :=
  and_assoc

theorem loadImage_of_empty {bytes : List Byte} (path : Path) (empty : bytes.length = 0) :
    loadImage path bytes = .error (.emptyInput path) :=
  if_pos empty

/-- A file whose length is no multiple of 4 is not empty, and its words do not come out (R108). -/
theorem loadImage_of_misaligned {bytes : List Byte} (path : Path) (partWord : bytes.length % 4 ≠ 0) :
    loadImage path bytes = .error (.misalignedBinary path bytes.length) := by
  have nonempty : bytes.length ≠ 0 := fun empty => partWord (by rw [empty])
  have noWords : wordsOfImage bytes = none := by
    refine Option.eq_none_iff_forall_ne_some.mpr fun ws read => partWord ?_
    rw [length_of_wordsOfImage read, Nat.mul_mod_right]
  simp only [loadImage, if_neg nonempty, noWords]

section
variable {cfg : Config} {req : ExecuteRequest}

theorem boot_of_bad_range (bad : ¬ WellFormed.dumpRange cfg.memSize req.dumpStart req.dumpEnd)
    (file : Option (List Byte)) : boot cfg req file = .error (.rangeError req.dumpStart req.dumpEnd cfg.memSize) :=
  if_neg bad

theorem boot_of_load_error {bytes : List Byte} {e : Error}
    (range : WellFormed.dumpRange cfg.memSize req.dumpStart req.dumpEnd)
    (refused : loadImage req.binary bytes = .error e) : boot cfg req (some bytes) = .error e := by
  simp only [boot, if_pos range, refused]

end

/-- Settles O41: the dump range is checked first, then the file, then its length (R115). -/
theorem startOfRunChecksInOrder : Obligations.StartOfRunChecksInOrder := by
  intro cfg req
  rw [← dumpRange_iff]
  refine ⟨boot_of_bad_range, fun range => ⟨boot_of_missing range, fun bytes => ⟨?_, ?_, ?_⟩⟩⟩
  · exact fun empty => boot_of_load_error range (loadImage_of_empty _ empty)
  · exact fun partWord => boot_of_load_error range (loadImage_of_misaligned _ partWord)
  · intro nonempty whole
    obtain ⟨imem, read⟩ := exists_wordsOfImage whole
    have booted := boot_eq_ok_iff.mpr ⟨range, bytes, imem, rfl, loadImage_eq_ok_iff.mpr ⟨nonempty, read⟩, rfl⟩
    obtain ⟨⟨startNonneg, -⟩, endNonneg, -⟩ := range
    exact ⟨_, booted, read, rfl, rfl, Int.toNat_of_nonneg startNonneg, Int.toNat_of_nonneg endNonneg⟩

/-! ## The observer -/

theorem observedRun_of_next {s t : State} (k : Nat) (seen : List Event) (h : step s = .next t) :
    observedRun (k + 1) s seen = observedRun k t (seen ++ stepEvents s) := by
  rw [observedRun, h]

theorem observedRun_of_stuck {s : State} (k : Nat) (seen : List Event) (h : ∀ t, step s ≠ .next t) :
    observedRun (k + 1) s seen = (s, seen) := by
  rw [observedRun]
  split
  · exact absurd ‹_› (h _)
  · rfl

/-- Settles O47: the observed run takes the same steps and stops at the same state, whatever was seen (R124). -/
theorem observerChangesNothing : Obligations.ObserverChangesNothing := by
  intro k s seen
  induction k generalizing s seen with
  | zero => rfl
  | succ k ih =>
    by_cases next : ∃ t, step s = .next t
    · obtain ⟨t, h⟩ := next
      rw [observedRun_of_next k seen h, CellWidth.runFor_of_next k h, ih]
    · have stuck : ∀ t, step s ≠ .next t := not_exists.mp next
      rw [observedRun_of_stuck k seen stuck, CellWidth.runFor_of_stuck _ stuck]

end Sys2Proof.Exceptions
end

section
/-! PROOFS. One invocation of both operations: the assembly comes first, and the execution runs on the files as they
are after it (R130). -/

namespace Sys2Proof.BothOperations

open Sys2Proof.Machine Sys2Proof.Operation

/-! ## What an execution adds to the invocation so far -/

@[simp] theorem executeAfter_files (cfg : Config) (sofar : InvocationOutcome) (req : ExecuteRequest) :
    (executeAfter cfg sofar req).files = sofar.files := by
  rw [executeAfter]
  split <;> rfl

@[simp] theorem executeAfter_log (cfg : Config) (sofar : InvocationOutcome) (req : ExecuteRequest) :
    (executeAfter cfg sofar req).log = sofar.log := by
  rw [executeAfter]
  split <;> rfl

/-- The execution's result or its error ends an invocation that has neither so far (R94, R103). -/
theorem executeAfter_ends {cfg : Config} {sofar : InvocationOutcome} {req : ExecuteRequest}
    (noResult : sofar.result = none) (noError : sofar.error = none) :
    ∃ o, execute cfg req (sofar.files.get req.binary) = some o ∧
      (∀ r, o = .result r →
        (executeAfter cfg sofar req).result = some r.output ∧ (executeAfter cfg sofar req).error = none) ∧
      (∀ e, o = .fatal e →
        (executeAfter cfg sofar req).result = none ∧ (executeAfter cfg sofar req).error = some e) := by
  obtain ⟨o, ends⟩ := exists_execute cfg req (sofar.files.get req.binary)
  refine ⟨o, ends, ?_, ?_⟩
  · rintro r rfl
    rw [executeAfter_of_result ends]
    exact ⟨rfl, noError⟩
  · rintro e rfl
    rw [executeAfter_of_fatal ends]
    exact ⟨noResult, rfl⟩

/-- After an assembly that succeeded, the execution starts from its outcome: the binary and the log stand. -/
theorem invoke_both_of_ok {cfg : Config} {files : Files} {asm : AssembleRequest} {bytes : List Byte}
    {log : List (Text × Text)} (assembled : assembleRequest cfg files asm = .ok (bytes, log)) (ex : ExecuteRequest) :
    invoke cfg files { assemble := some asm, execute := some ex } =
      executeAfter cfg
        { files := (asm.binary, bytes) :: files, log := some log, result := none, error := none } ex := by
  simp only [invoke, assembled]

/-- Settles O59: the execution follows the assembly's outcome, and reads the new image exactly at the path written. -/
theorem assemblyRunsBeforeExecution : Obligations.AssemblyRunsBeforeExecution := by
  intro cfg files asm ex
  refine ⟨fun e failed => invoke_assemble_of_error failed (some ex), fun bytes log assembled => ?_⟩
  have ends := executeAfter_ends (cfg := cfg) (req := ex)
    (sofar := { files := (asm.binary, bytes) :: files, log := some log, result := none, error := none }) rfl rfl
  rw [get_cons] at ends
  refine ⟨_, invoke_both_of_ok assembled ex, executeAfter_files .., executeAfter_log .., fun same => ?_, fun other => ?_⟩
  · rwa [if_pos same.symm] at ends
  · rwa [if_neg (Ne.symm other)] at ends

end Sys2Proof.BothOperations
end
